-- ==== Sys2Proof/Word.lean ====
section
/-! DEFINITION. Word.lean: the three widths of the block (00_scope.md R9, R10; 42_base64.md R151).
Registers and command words are 32 bits (R20), a message byte is 8 bits (R9), a base64 group is 6 bits. -/

namespace Sys2Proof

/-- A register value or command word: 32 bits (10_state.md R20). -/
abbrev Word := BitVec 32

/-- A byte of a message, or a character by its 8-bit code (00_scope.md R9, R13). -/
abbrev Byte := BitVec 8

/-- A base64 group: a 6-bit value (42_base64.md R150, R151). -/
abbrev Group := BitVec 6

end Sys2Proof
end

