-- ==== Sys2Proof/Syntax.lean ====
section
/-! DEFINITION. Syntax.lean: the commands of the block, one constructor for each row of spec/opcode_table.json
(30_encoding.md R92). A command has no immediate and no register operand (R91), so no constructor has a field. -/

namespace Sys2Proof

/-- The eight commands of 30_encoding.md R92, in the table's order. -/
inductive Instr where
  | nop
  | mask
  | denc
  | ddec
  | b64e
  | b64d
  | penc
  | pdec
  deriving DecidableEq, Repr

end Sys2Proof
end

