-- ==== Sys2Proof/Decode.lean ====
section
/-! DEFINITION. Decode.lean: the command word (30_encoding.md R90 to R96), the decoder (R95), total on every 32-bit
word, and the encoder (R92). -/

namespace Sys2Proof

/-- Why a command word is illegal (30_encoding.md R93). Both have the one effect of 43_pipeline.md R180. -/
inductive Illegal where
  /-- `RSVD != 0`. -/
  | reservedNotZero
  /-- `OPC` in `0x08..0xFF`. -/
  | opcodeUnassigned
  deriving DecidableEq, Repr

/-- The field `OPC`, bits 7:0 of a command word (30_encoding.md R90). -/
def opcField (v : Word) : Byte := v.extractLsb' 0 8

/-- The field `RSVD`, bits 31:8 of a command word (30_encoding.md R90). -/
def rsvdField (v : Word) : BitVec 24 := v.extractLsb' 8 24

/-- `Decode(v)` (30_encoding.md R95). -/
def decode (v : Word) : Except Illegal Instr :=
  if rsvdField v ≠ 0 then .error .reservedNotZero
  else
    match (opcField v).toNat with
    | 0x00 => .ok .nop
    | 0x01 => .ok .mask
    | 0x02 => .ok .denc
    | 0x03 => .ok .ddec
    | 0x04 => .ok .b64e
    | 0x05 => .ok .b64d
    | 0x06 => .ok .penc
    | 0x07 => .ok .pdec
    | _ => .error .opcodeUnassigned

/-- The opcode of a command (30_encoding.md R92). -/
def opcode : Instr → Byte
  | .nop => 0x00
  | .mask => 0x01
  | .denc => 0x02
  | .ddec => 0x03
  | .b64e => 0x04
  | .b64d => 0x05
  | .penc => 0x06
  | .pdec => 0x07

/-- The full word of a command: `RSVD = 0` above its opcode (30_encoding.md R92). -/
def encode (i : Instr) : Word := (opcode i).setWidth 32

/-- The mnemonic of a command (30_encoding.md R92, R99). -/
def mnemonic : Instr → String
  | .nop => "NOP"
  | .mask => "MASK"
  | .denc => "DENC"
  | .ddec => "DDEC"
  | .b64e => "B64E"
  | .b64d => "B64D"
  | .penc => "PENC"
  | .pdec => "PDEC"

/-- What `decode` reads from a command whose bits are `w`, numbered as spec/opcode_table.json numbers them. A
command is one 32-bit word moved whole (30_encoding.md R90; 20_memory.md R68), so bit `k` of `w` is bit `k` of
the word. A number with a bit at or above `nbits`, or at or above 32, is no command. -/
def decodeTableWord (nbits w : Nat) : Option Instr :=
  if w < 2 ^ min nbits 32 then
    match decode (BitVec.ofNat 32 w) with
    | .ok i => some i
    | .error _ => none
  else none

end Sys2Proof
end

