-- ==== Sys2Proof/Machine/Event.lean ====
section
/-! DEFINITION. Machine/Event.lean: what can happen to the block from outside, and which agent moves
(00_scope.md R8; 20_memory.md R60, R69, R71; 60_exceptions.md R206; 70_reset_and_hazards.md R230). -/

namespace Sys2Proof.Machine

/-- The width of a bus access. Only `word` is part of the block's interface (20_memory.md R69). -/
inductive Width where
  | byte
  | half
  | word
  deriving DecidableEq, Repr

/-- A host access: `HostRead(off)` or `HostWrite(off, v)` (20_memory.md R60). The width and any offset can be
written down so that the accesses R69 excludes have a name to be refused under. In a `bus` event the number is an
address on the host's bus instead of an offset (20_memory.md R77). -/
inductive Access where
  | read (w : Width) (off : Nat)
  | write (w : Width) (off : Nat) (v : Word)
  deriving DecidableEq, Repr

/-- One entry of the interleaving (20_memory.md R71): a host access named by its offset, as host programs name it
(30_encoding.md R97), or by its address on the host's bus (20_memory.md R77), the engine's turn, or the reset input. -/
inductive Event where
  | access (a : Access)
  | bus (a : Access)
  | engine
  | reset
  deriving DecidableEq, Repr

/-- The six registers a host sees (10_state.md R20). -/
inductive Reg where
  | ctrl
  | status
  | cmd
  | len
  | dptr
  | ddata
  deriving DecidableEq, Repr

end Sys2Proof.Machine
end

