-- ==== Sys2Proof/Config.lean ====
section
/-! DEFINITION. Config.lean: the parameters of one block (00_scope.md R7, 10_state.md R33;
20_memory.md R77; 60_exceptions.md R207) and the free values.
The parameters are plain data that State carries and no step changes (log entry 3); their reference values
stand in Machine/Profile.lean. The diffusion key table is no parameter: it is fixed by 41_diffusion.md R132 and
stands in Machine/Diffusion.lean (log entry 10). -/

namespace Sys2Proof

/-- The parameters of 00_scope.md R7 and the two open ones of the platform (92_eei_decisions.md D6, D18): each is fixed
for a block and cannot change while it runs. -/
structure Config where
  /-- `MASK`, the 32-bit mask constant (40_mask.md R110). -/
  mask : Word
  /-- `ALPHABET`, index 0 to 63 (42_base64.md R150). -/
  alphabet : Vector Byte 64
  /-- `PAD`, the padding character (42_base64.md R150). -/
  pad : Byte
  /-- `BUF_BYTES`, the number of bytes of `DATA` (10_state.md R30). -/
  bufBytes : Nat
  /-- `BXM_BASE`, the address on the host's bus at which the 64-byte aperture starts (20_memory.md R77). The spec gives
  no address width and no constraint, so it is a natural number (log entry 16). -/
  base : Nat
  /-- `BXM_IRQ_ROUTE`, where the platform routes the interrupt output (60_exceptions.md R207). The spec gives it no
  form: a number names the route (log entry 16). -/
  irqRoute : Nat
  deriving DecidableEq, Repr

/-- The value of byte `i` of `DATA` that nothing has written since the reset numbered `draw`: a free value
(70_reset_and_hazards.md R232, "each byte either a draw (any value, under no law)"). It has no body, so no
proof can see it. DESIGN CHOICE: R232 allows a draw or a fault (log entry 1). -/
opaque Config.freeByte (draw i : Nat) : Byte

end Sys2Proof
end

