-- ==== Sys2Proof/Machine/Profile.lean ====
section
/-! DEFINITION. Machine/Profile.lean: the reference profile of 00_scope.md R7, the parameters State.reset carries.
DESIGN CHOICE (log entry 3): the spec names the profile as its own choice; every statement about a command is made
for all parameters. -/

namespace Sys2Proof.Machine

/-- The RFC 4648 standard alphabet: `A`-`Z`, `a`-`z`, `0`-`9`, `+`, `/` (00_scope.md R7). -/
def referenceAlphabet : Vector Byte 64 :=
  #v[0x41, 0x42, 0x43, 0x44, 0x45, 0x46, 0x47, 0x48, 0x49, 0x4A, 0x4B, 0x4C, 0x4D,
     0x4E, 0x4F, 0x50, 0x51, 0x52, 0x53, 0x54, 0x55, 0x56, 0x57, 0x58, 0x59, 0x5A,
     0x61, 0x62, 0x63, 0x64, 0x65, 0x66, 0x67, 0x68, 0x69, 0x6A, 0x6B, 0x6C, 0x6D,
     0x6E, 0x6F, 0x70, 0x71, 0x72, 0x73, 0x74, 0x75, 0x76, 0x77, 0x78, 0x79, 0x7A,
     0x30, 0x31, 0x32, 0x33, 0x34, 0x35, 0x36, 0x37, 0x38, 0x39, 0x2B, 0x2F]

/-- The reference profile (00_scope.md R7): `MASK = 0xDEADBEEF`, `PAD` is `=`, `BUF_BYTES = 4096`. It needs no `BXM_BASE`
(20_memory.md R77) and gives no `BXM_IRQ_ROUTE`: both are DESIGN CHOICE 0 here (log entry 16). -/
def referenceProfile : Config where
  mask := 0xDEADBEEF
  alphabet := referenceAlphabet
  pad := 0x3D
  bufBytes := 4096
  base := 0
  irqRoute := 0

end Sys2Proof.Machine
end

