-- ==== Sys2Proof/Machine/State.lean ====
section
/-! DEFINITION. Machine/State.lean: everything the spec gives the block (10_state.md R20 to R34), as plain data, the
reasons a step can stop, and the state after reset (10_state.md R34). -/

namespace Sys2Proof.Machine

/-- Why a step ends in a fault. -/
inductive Fault where
  /-- Raised by `engineTurn` when `STATUS.BUSY = 1` and `PEND_OP` is not one of the eight opcodes. No run from reset
  reaches such a state (43_pipeline.md R187). Safe: the model stops where the spec says nothing (log entry 8). -/
  | pendOpUnassigned
  deriving DecidableEq, Repr

/-- Why a step is refused. -/
inductive Refusal where
  /-- Raised by `exec` for a command that has no meaning in the model; none is left. Safe: the model stops. -/
  | notModelled (mnemonic : String)
  /-- Raised by `hostAccess` and `runEvent` for a sub-word, misaligned or out-of-aperture access, for which
  "a model has no step" (20_memory.md R69). Safe: the model stops (log entry 7). -/
  | accessOutsideInterface
  deriving DecidableEq, Repr

/-- The legal values of `STATUS.ERR` (60_exceptions.md R201). The codes 5 to 7 are never produced and have no
constructor (10_state.md R24; log entry 11). -/
inductive ErrCode where
  | none
  | invalidCharacter
  | invalidLength
  | illegalCommand
  | capacity
  deriving DecidableEq, Repr

/-- The bytes of `DATA` written since the last reset, by rising index (10_state.md R30). An index that is not listed
is unwritten and reads as a free value (70_reset_and_hazards.md R232; log entries 1 and 2). -/
abbrev Memory := List Host.Cell

/-- The one form of a memory: indices strictly rising. The unwritten mark of an unlisted index is no byte, so no
entry can equal it (log entry 2). -/
abbrev Memory.wf (m : Memory) : Prop := m.Pairwise fun x y => x.1 < y.1

/-- The state of the block, its parameters, and the model's own record of the world outside. -/
structure State where
  /-- `CTRL.IE`, the interrupt enable (10_state.md R22). -/
  ie : Bool
  /-- `STATUS.BUSY` (10_state.md R23). -/
  busy : Bool
  /-- `STATUS.DONE` (10_state.md R23). -/
  done : Bool
  /-- `STATUS.AV`, the sticky access violation bit (10_state.md R23). -/
  av : Bool
  /-- `STATUS.ERR` (10_state.md R23, R24). -/
  err : ErrCode
  /-- `LEN`, the message length in bytes (10_state.md R26). -/
  len : Word
  /-- `DPTR`, the index the data port uses next (10_state.md R27). -/
  dptr : Word
  /-- `PEND_OP`, the opcode of the accepted command (10_state.md R31). While `BUSY = 0` the spec leaves it any value
  (93_implementation_defined.md U7); that it then keeps the last accepted opcode is DESIGN CHOICE (log entry 5). -/
  pendOp : Byte
  /-- `DATA`, the message buffer (10_state.md R30). -/
  data : Memory
  /-- The parameters `MASK`, `ALPHABET`, `PAD`, `BUF_BYTES` (10_state.md R33), `BXM_BASE` (20_memory.md R77) and
  `BXM_IRQ_ROUTE` (60_exceptions.md R207). No step changes them. -/
  cfg : Config
  /-- The MODEL'S OWN: how many resets have drawn new contents for `DATA` (log entry 1). -/
  draws : Nat
  /-- The MODEL'S OWN: the interleaving still to come, first entry next (log entry 4). -/
  events : List Event
  /-- The MODEL'S OWN: the values host reads have returned, the latest first (log entry 6). -/
  results : List Word
  deriving DecidableEq, Repr

/-- The state after reset of a block with parameters `c` (10_state.md R34). `PEND_OP` is DESIGN CHOICE 0 (log entry 5);
`DATA` has nothing listed, so every byte is a free value. -/
def State.resetWith (c : Config) : State where
  ie := false
  busy := false
  done := false
  av := false
  err := .none
  len := 0
  dptr := 0
  pendOp := 0
  data := []
  cfg := c
  draws := 0
  events := []
  results := []

/-- The state after reset of the block with the reference profile (10_state.md R34; log entry 3). -/
def State.reset : State := State.resetWith referenceProfile

end Sys2Proof.Machine
end

