-- ==== Sys2Proof/Machine/Flags.lean ====
section
/-! DEFINITION. Machine/Flags.lean: the fields of STATUS and CTRL, what sets and clears them, and the interrupt
output (10_state.md R22 to R24, R32; 60_exceptions.md R201, R207, R208). -/

namespace Sys2Proof.Machine

/-- The three bits of `STATUS.ERR` (60_exceptions.md R201). -/
def errField : ErrCode → BitVec 3
  | .none => 0
  | .invalidCharacter => 1
  | .invalidLength => 2
  | .illegalCommand => 3
  | .capacity => 4

/-- A flag as a 32-bit value, `zext_32` (00_scope.md R10). -/
def flagWord (b : Bool) : Word := (BitVec.ofBool b).setWidth 32

/-- What a read of `CTRL` returns (20_memory.md R62). -/
def State.ctrlWord (s : State) : Word := flagWord s.ie

/-- What a read of `STATUS` returns (20_memory.md R62). -/
def State.statusWord (s : State) : Word :=
  (errField s.err).setWidth 32 <<< 8 ||| flagWord s.av <<< 2 ||| flagWord s.done <<< 1 ||| flagWord s.busy

/-- The interrupt output, `IRQ = CTRL.IE & STATUS.DONE` (10_state.md R32). -/
def State.irq (s : State) : Bool := s.ie && s.done

/-- The interrupt output as the platform receives it: its level on the route `BXM_IRQ_ROUTE` (60_exceptions.md R207). What
the platform does with it, its priority among them, lies outside the block. -/
def State.irqLine (s : State) : Nat × Bool := (s.cfg.irqRoute, s.irq)

/-- An access violation sets `STATUS.AV` (60_exceptions.md R204). -/
def State.setAv (s : State) : State := { s with av := true }

/-- A write of `CTRL` (20_memory.md R63). -/
def State.writeCtrl (v : Word) (s : State) : State := { s with ie := v.getLsbD 0 }

/-- A write of `STATUS`: write 1 to clear `DONE` and `AV`, the other bits ignored (20_memory.md R63). -/
def State.writeStatus (v : Word) (s : State) : State :=
  { s with done := s.done && !v.getLsbD 1, av := s.av && !v.getLsbD 2 }

/-- The `STATUS` update that ends a command: `ERR` is the outcome, `BUSY` 0, `DONE` 1 (43_pipeline.md R181,
60_exceptions.md R203). `PEND_OP` keeps the opcode of the command that ended: DESIGN CHOICE, since neither rule writes it
and 93_implementation_defined.md U7 leaves it any value while `BUSY = 0` (log entry 5). -/
def State.endCommand (e : ErrCode) (s : State) : State := { s with err := e, busy := false, done := true }

/-- The `STATUS` update of an accepted issue: `DONE` and `ERR` cleared, `BUSY` 1, `PEND_OP` the opcode
(43_pipeline.md R180). -/
def State.acceptCommand (op : Byte) (s : State) : State :=
  { s with done := false, err := .none, pendOp := op, busy := true }

end Sys2Proof.Machine
end

