-- ==== Sys2Proof/Machine/Ops.lean ====
section
/-! DEFINITION. Machine/Ops.lean: the named operations over DATA and the registers: reading and writing a byte
(00_scope.md R11), the successful and the failed end of a command (43_pipeline.md R181, 60_exceptions.md R203: the
block's one form of "trap entry", R209; it has no return, R210), and issuing a command (43_pipeline.md R180). -/

namespace Sys2Proof.Machine

/-- The byte listed at index `a`, if any. -/
def Memory.get? : Memory → Nat → Option Byte
  | [], _ => none
  | (k, v) :: m, a => if a = k then some v else Memory.get? m a

/-- The memory with `v` written at index `a`; the indices stay strictly rising. -/
def Memory.put (a : Nat) (v : Byte) : Memory → Memory
  | [] => [(a, v)]
  | (k, w) :: m =>
    if a < k then (a, v) :: (k, w) :: m
    else if a = k then (a, v) :: m
    else (k, w) :: Memory.put a v m

/-- The memory with the bytes of a sequence written from index `i` up (the loop of 43_pipeline.md R181). -/
def Memory.putAll (i : Nat) : List Byte → Memory → Memory
  | [], m => m
  | b :: bs, m => Memory.putAll (i + 1) bs (Memory.put i b m)

/-- `MemRead(i, 1)` (00_scope.md R11). An unwritten byte is a free value (70_reset_and_hazards.md R232). -/
def State.memRead (s : State) (i : Nat) : Byte := (Memory.get? s.data i).getD (Config.freeByte s.draws i)

/-- `MemWrite(i, 1, v)` (00_scope.md R11). -/
def State.memWrite (i : Nat) (v : Byte) (s : State) : State := { s with data := Memory.put i v s.data }

/-- `complete(out)`, the successful end of a command with output `out` (43_pipeline.md R181). -/
def State.complete (out : List Byte) (s : State) : State :=
  State.endCommand .none { s with data := Memory.putAll 0 out s.data, len := BitVec.ofNat 32 out.length }

/-- `raise Error(code)`, the failed end of a command: only `STATUS` changes (60_exceptions.md R203). -/
def State.raiseError (e : ErrCode) (s : State) : State := State.endCommand e s

/-- The end of a command whose rule computes `r` from the message (43_pipeline.md R187: each arm ends in
`complete(out)` or in `raise Error(code)`). -/
def State.finish (r : Except ErrCode (List Byte)) (s : State) : State :=
  match r with
  | .ok out => s.complete out
  | .error e => s.raiseError e

/-- `DPTR <- (DPTR + 1) mod 2^32` (20_memory.md R65 to R67). -/
def State.advanceDptr (s : State) : State := { s with dptr := s.dptr + 1 }

/-- A write of `CMD`: issue a command (43_pipeline.md R180). -/
def State.issue (v : Word) (s : State) : State :=
  if s.busy then s.setAv
  else
    match decode v with
    | .ok _ => s.acceptCommand (opcField v)
    | .error _ => s.raiseError .illegalCommand

/-- The pending command as a word: `PEND_OP` with `RSVD = 0` (43_pipeline.md R187). -/
def State.fetch (s : State) : Word := s.pendOp.setWidth 32

/-- Reset asserted in state `s` (70_reset_and_hazards.md R230, R231): every piece of state takes its value of
10_state.md R34, `DATA` gets new unspecified contents (R232), and what lies outside the block stays as it is (log
entry 12). -/
def State.hardReset (s : State) : State :=
  { State.resetWith s.cfg with draws := s.draws + 1, events := s.events, results := s.results }

end Sys2Proof.Machine
end

