-- ==== Sys2Proof/Machine/Operands.lean ====
section
/-! DEFINITION. Machine/Operands.lean: the implicit operand of every command, the message DATA[0..LEN) (30_encoding.md
R91), and the capacity check in front of it (43_pipeline.md R182). -/

namespace Sys2Proof.Machine

/-- The message `DATA[0..LEN)` (10_state.md R26, R30). -/
def State.message (s : State) : List Byte := (List.range s.len.toNat).map s.memRead

/-- The result of a command that works on the message: `CAPACITY` when `LEN > BUF_BYTES`, before anything else
(43_pipeline.md R182; 60_exceptions.md R205), else what `f` computes from the message. -/
def State.onMessage (f : List Byte → Except ErrCode (List Byte)) (s : State) : Except ErrCode (List Byte) :=
  if s.cfg.bufBytes < s.len.toNat then .error .capacity else f s.message

end Sys2Proof.Machine
end

