-- ==== Sys2Proof/Machine/Base64.lean ====
section
/-! DEFINITION. Machine/Base64.lean: Base64Codec and the commands B64E and B64D (42_base64.md R150 to R162). -/

namespace Sys2Proof.Machine

/-- `ALPHABET[g]` (42_base64.md R150). -/
def charOf (c : Config) (g : Group) : Byte := c.alphabet.get g.toFin

/-- The index of a character in a list of characters, counted from `i`; the first match (the entries are distinct in
every admitted configuration; log entry 14). -/
def indexFrom (x : Byte) : Nat → List Byte → Option Nat
  | _, [] => none
  | i, c :: cs => if x = c then some i else indexFrom x (i + 1) cs

/-- `INDEX(c)`, the reverse lookup; `none` for a character that is no alphabet entry (42_base64.md R150). -/
def indexOf (c : Config) (x : Byte) : Option Group :=
  (indexFrom x 0 c.alphabet.toList).map (BitVec.ofNat 6)

/-- `g0 = b0 >> 2` (42_base64.md R151). -/
def group0 (b0 : Byte) : Group := (b0 >>> 2).setWidth 6

/-- `g1 = ((b0 & 0x03) << 4) | (b1 >> 4)` (42_base64.md R151). -/
def group1 (b0 b1 : Byte) : Group := (((b0 &&& 0x03) <<< 4) ||| (b1 >>> 4)).setWidth 6

/-- `g2 = ((b1 & 0x0F) << 2) | (b2 >> 6)` (42_base64.md R151). -/
def group2 (b1 b2 : Byte) : Group := (((b1 &&& 0x0F) <<< 2) ||| (b2 >>> 6)).setWidth 6

/-- `g3 = b2 & 0x3F` (42_base64.md R151). -/
def group3 (b2 : Byte) : Group := (b2 &&& 0x3F).setWidth 6

/-- `B64Enc(s)`, chunk by chunk; only the last chunk can have 1 or 2 bytes (42_base64.md R152). -/
def b64Enc (c : Config) : List Byte → List Byte
  | [] => []
  | [b0] => [charOf c (group0 b0), charOf c (group1 b0 0), c.pad, c.pad]
  | [b0, b1] => [charOf c (group0 b0), charOf c (group1 b0 b1), charOf c (group2 b1 0), c.pad]
  | b0 :: b1 :: b2 :: rest =>
    charOf c (group0 b0) :: charOf c (group1 b0 b1) :: charOf c (group2 b1 b2) :: charOf c (group3 b2) ::
      b64Enc c rest

/-- `4 * ceil(n / 3)`, the length of an encoded message of `n` bytes (42_base64.md R153). -/
def encodedLength (n : Nat) : Nat := 4 * ((n + 2) / 3)

/-- The padding count of a chunk: 2 or 1 only in the forms `xx==` and `xxx=` of the final chunk (42_base64.md R155). -/
def padCount (c : Config) (final : Bool) (c2 c3 : Byte) : Nat :=
  if final ∧ c2 = c.pad ∧ c3 = c.pad then 2
  else if final ∧ c3 = c.pad then 1
  else 0

/-- The bytes of a chunk from its four 6-bit values (42_base64.md R155). -/
def chunkBytes (v0 v1 v2 v3 : Group) : List Byte :=
  [((v0.setWidth 8 <<< 2) ||| (v1.setWidth 8 >>> 4)),
   (((v1.setWidth 8 &&& 0x0F) <<< 4) ||| (v2.setWidth 8 >>> 2)),
   (((v2.setWidth 8 &&& 0x03) <<< 6) ||| v3.setWidth 8)]

/-- The value of the character at position `p` of a chunk with `pads` padding characters: `INDEX(c_p)`, and 0 for a
padding position (42_base64.md R155). -/
def charValue (c : Config) (pads p : Nat) (x : Byte) : Option Group :=
  if p < 4 - pads then indexOf c x else some 0

/-- One chunk of `B64Dec` with its padding count; `none` when a character is no alphabet entry (42_base64.md R155). -/
def decodeChunk (c : Config) (pads : Nat) (c0 c1 c2 c3 : Byte) : Option (List Byte) :=
  match charValue c pads 0 c0, charValue c pads 1 c1, charValue c pads 2 c2, charValue c pads 3 c3 with
  | some v0, some v1, some v2, some v3 => some ((chunkBytes v0 v1 v2 v3).take (3 - pads))
  | _, _, _, _ => none

/-- The chunks of `B64Dec`, in order; a chunk is final when nothing follows it (42_base64.md R155). A rest of 1 to 3
characters does not occur, because `b64Dec` checks the length first. -/
def decodeChunks (c : Config) : List Byte → Except ErrCode (List Byte)
  | [] => .ok []
  | c0 :: c1 :: c2 :: c3 :: rest =>
    match decodeChunk c (padCount c rest.isEmpty c2 c3) c0 c1 c2 c3 with
    | none => .error .invalidCharacter
    | some bytes =>
      match decodeChunks c rest with
      | .ok more => .ok (bytes ++ more)
      | .error e => .error e
  | _ => .error .invalidLength

/-- `B64Dec(t)`: the length check first, length 0 accepted (42_base64.md R154), then the chunks (R155). -/
def b64Dec (c : Config) (t : List Byte) : Except ErrCode (List Byte) :=
  if t.length % 4 ≠ 0 then .error .invalidLength else decodeChunks c t

/-- The output check of B64E and PENC: `CAPACITY` when the encoded message would not fit (42_base64.md R159), else
`out`. -/
def fitEncoded (c : Config) (n : Nat) (out : List Byte) : Except ErrCode (List Byte) :=
  if c.bufBytes < encodedLength n then .error .capacity else .ok out

/-- What B64E computes (42_base64.md R159). -/
def b64eResult (s : State) : Except ErrCode (List Byte) :=
  s.onMessage fun msg => fitEncoded s.cfg msg.length (b64Enc s.cfg msg)

/-- `B64E`: base64-encode the message in place (42_base64.md R159). -/
def execB64e (s : State) : Host.Outcome State Fault Refusal := .next (s.finish (b64eResult s))

/-- What B64D computes (42_base64.md R160). -/
def b64dResult (s : State) : Except ErrCode (List Byte) := s.onMessage fun msg => b64Dec s.cfg msg

/-- `B64D`: base64-decode the message in place (42_base64.md R160). -/
def execB64d (s : State) : Host.Outcome State Fault Refusal := .next (s.finish (b64dResult s))

end Sys2Proof.Machine
end

