-- ==== Sys2Proof/Machine/Diffusion.lean ====
section
/-! DEFINITION. Machine/Diffusion.lean: DiffusionCipher and the commands DENC and DDEC (41_diffusion.md R130 to R139). -/

namespace Sys2Proof.Machine

/-- `KEY` as the 256-entry table of 41_diffusion.md R132, a row of 16 for each high nibble. -/
def keyTable : List (List Byte) := [
  [0x00, 0x06, 0x0C, 0x12, 0x19, 0x1F, 0x25, 0x2B, 0x32, 0x38, 0x3E, 0x45, 0x4B, 0x51, 0x57, 0x5E],
  [0x64, 0x6A, 0x71, 0x77, 0x7D, 0x83, 0x8A, 0x90, 0x96, 0x9D, 0xA3, 0xA9, 0xAF, 0xB6, 0xBC, 0xC2],
  [0xC9, 0xCF, 0xD5, 0xDB, 0xE2, 0xE8, 0xEE, 0xF5, 0xFB, 0x01, 0x07, 0x0E, 0x14, 0x1A, 0x21, 0x27],
  [0x2D, 0x33, 0x3A, 0x40, 0x46, 0x4D, 0x53, 0x59, 0x5F, 0x66, 0x6C, 0x72, 0x78, 0x7F, 0x85, 0x8B],
  [0x92, 0x98, 0x9E, 0xA4, 0xAB, 0xB1, 0xB7, 0xBE, 0xC4, 0xCA, 0xD0, 0xD7, 0xDD, 0xE3, 0xEA, 0xF0],
  [0xF6, 0xFC, 0x03, 0x09, 0x0F, 0x16, 0x1C, 0x22, 0x28, 0x2F, 0x35, 0x3B, 0x42, 0x48, 0x4E, 0x54],
  [0x5B, 0x61, 0x67, 0x6E, 0x74, 0x7A, 0x80, 0x87, 0x8D, 0x93, 0x9A, 0xA0, 0xA6, 0xAC, 0xB3, 0xB9],
  [0xBF, 0xC5, 0xCC, 0xD2, 0xD8, 0xDF, 0xE5, 0xEB, 0xF1, 0xF8, 0xFE, 0x04, 0x0B, 0x11, 0x17, 0x1D],
  [0x24, 0x2A, 0x30, 0x37, 0x3D, 0x43, 0x49, 0x50, 0x56, 0x5C, 0x63, 0x69, 0x6F, 0x75, 0x7C, 0x82],
  [0x88, 0x8F, 0x95, 0x9B, 0xA1, 0xA8, 0xAE, 0xB4, 0xBB, 0xC1, 0xC7, 0xCD, 0xD4, 0xDA, 0xE0, 0xE7],
  [0xED, 0xF3, 0xF9, 0x00, 0x06, 0x0C, 0x13, 0x19, 0x1F, 0x25, 0x2C, 0x32, 0x38, 0x3E, 0x45, 0x4B],
  [0x51, 0x58, 0x5E, 0x64, 0x6A, 0x71, 0x77, 0x7D, 0x84, 0x8A, 0x90, 0x96, 0x9D, 0xA3, 0xA9, 0xB0],
  [0xB6, 0xBC, 0xC2, 0xC9, 0xCF, 0xD5, 0xDC, 0xE2, 0xE8, 0xEE, 0xF5, 0xFB, 0x01, 0x08, 0x0E, 0x14],
  [0x1A, 0x21, 0x27, 0x2D, 0x34, 0x3A, 0x40, 0x46, 0x4D, 0x53, 0x59, 0x60, 0x66, 0x6C, 0x72, 0x79],
  [0x7F, 0x85, 0x8B, 0x92, 0x98, 0x9E, 0xA5, 0xAB, 0xB1, 0xB7, 0xBE, 0xC4, 0xCA, 0xD1, 0xD7, 0xDD],
  [0xE3, 0xEA, 0xF0, 0xF6, 0xFD, 0x03, 0x09, 0x0F, 0x16, 0x1C, 0x22, 0x29, 0x2F, 0x35, 0x3B, 0x42]]

/-- The diffusion key of a byte: the row is its high nibble and the column its low nibble (41_diffusion.md R132). -/
def key (h : Byte) : Byte := (keyTable.getD (h.toNat / 16) []).getD (h.toNat % 16) 0

/-- `T xor k` (41_diffusion.md R130). -/
def xorAll (k : Byte) (t : List Byte) : List Byte := t.map (· ^^^ k)

/-- `DiffEnc(s)`, by recursion on the message (41_diffusion.md R134). -/
def diffEnc : List Byte → List Byte
  | [] => []
  | h :: t => h :: xorAll (key h) (diffEnc t)

/-- The scan of 41_diffusion.md R136 for decoding: `acc` is the XOR of the keys of all earlier plaintext bytes. -/
def diffDecFrom : Byte → List Byte → List Byte
  | _, [] => []
  | acc, c :: cs => (c ^^^ acc) :: diffDecFrom (acc ^^^ key (c ^^^ acc)) cs

/-- `DiffDec(c)` in the iterative form of 41_diffusion.md R136, equal to R135's recursion (log entry 15). -/
def diffDec (c : List Byte) : List Byte := diffDecFrom 0 c

/-- What DENC computes (41_diffusion.md R137). -/
def dencResult (s : State) : Except ErrCode (List Byte) := s.onMessage fun msg => .ok (diffEnc msg)

/-- `DENC`: apply DiffusionCipher in the encode direction, in place (41_diffusion.md R137). -/
def execDenc (s : State) : Host.Outcome State Fault Refusal := .next (s.finish (dencResult s))

/-- What DDEC computes (41_diffusion.md R138). -/
def ddecResult (s : State) : Except ErrCode (List Byte) := s.onMessage fun msg => .ok (diffDec msg)

/-- `DDEC`: apply DiffusionCipher in the decode direction, in place (41_diffusion.md R138). -/
def execDdec (s : State) : Host.Outcome State Fault Refusal := .next (s.finish (ddecResult s))

end Sys2Proof.Machine
end

