-- ==== Sys2Proof/Machine/Mask.lean ====
section
/-! DEFINITION. Machine/Mask.lean: MaskTransform and the command MASK (40_mask.md R110 to R115). -/

namespace Sys2Proof.Machine

/-- Mask byte `MB(j) = MASK[31-8j : 24-8j]`, most significant byte first (40_mask.md R110). -/
def maskByte (m : Word) (j : Nat) : Byte := m.extractLsb' (24 - 8 * j) 8

/-- `leadPad = L mod 4` (40_mask.md R111). -/
def leadPad (L : Nat) : Nat := L % 4

/-- `trailPad = 4 - leadPad`, or 0 when `leadPad = 0` (40_mask.md R111). -/
def trailPad (L : Nat) : Nat := if leadPad L ≠ 0 then 4 - leadPad L else 0

/-- The bytes of a message from index `i` on, those of the interior `[lead, stop)` masked with the cycle that begins at
`m0` at index `lead` (40_mask.md R112). -/
def maskFrom (m : Word) (lead stop : Nat) : Nat → List Byte → List Byte
  | _, [] => []
  | i, b :: bs =>
    (if lead ≤ i ∧ i < stop then b ^^^ maskByte m ((i - lead) % 4) else b) :: maskFrom m lead stop (i + 1) bs

/-- `MaskApply(s)` (40_mask.md R112). -/
def maskApply (m : Word) (s : List Byte) : List Byte :=
  if s.length < leadPad s.length + trailPad s.length then s
  else maskFrom m (leadPad s.length) (s.length - trailPad s.length) 0 s

/-- What MASK computes (40_mask.md R113). -/
def maskResult (s : State) : Except ErrCode (List Byte) :=
  s.onMessage fun msg => .ok (maskApply s.cfg.mask msg)

/-- `MASK`: apply MaskTransform to the message in place (40_mask.md R113). -/
def execMask (s : State) : Host.Outcome State Fault Refusal := .next (s.finish (maskResult s))

end Sys2Proof.Machine
end

