-- ==== Sys2Proof/Machine/Pipeline.lean ====
section
/-! DEFINITION. Machine/Pipeline.lean: the commands NOP, PENC and PDEC (43_pipeline.md R183 to R186). -/

namespace Sys2Proof.Machine

/-- `NOP`: complete with success and do nothing else; `LEN` is not read (43_pipeline.md R183). -/
def execNop (s : State) : Host.Outcome State Fault Refusal := .next (s.endCommand .none)

/-- The encode composition: mask, then diffusion, then base64 (43_pipeline.md R184). -/
def pipeEncode (c : Config) (msg : List Byte) : List Byte := b64Enc c (diffEnc (maskApply c.mask msg))

/-- The decode composition; the mask sees the decoded length (43_pipeline.md R185). -/
def pipeDecode (c : Config) (t : List Byte) : Except ErrCode (List Byte) :=
  match b64Dec c t with
  | .ok r => .ok (maskApply c.mask (diffDec r))
  | .error e => .error e

/-- What PENC computes (43_pipeline.md R184). -/
def pencResult (s : State) : Except ErrCode (List Byte) :=
  s.onMessage fun msg => fitEncoded s.cfg msg.length (pipeEncode s.cfg msg)

/-- `PENC`: the pipeline encode, in place (43_pipeline.md R184). -/
def execPenc (s : State) : Host.Outcome State Fault Refusal := .next (s.finish (pencResult s))

/-- What PDEC computes (43_pipeline.md R185). -/
def pdecResult (s : State) : Except ErrCode (List Byte) := s.onMessage fun msg => pipeDecode s.cfg msg

/-- `PDEC`: the pipeline decode, in place (43_pipeline.md R185). -/
def execPdec (s : State) : Host.Outcome State Fault Refusal := .next (s.finish (pdecResult s))

end Sys2Proof.Machine
end

