-- ==== Sys2Proof/WellFormed.lean ====
section
/-! DEFINITION. WellFormed.lean: which terms the spec admits. A command has no field, so each is well formed
(30_encoding.md R91); a host access must be a whole word at an aligned offset of the aperture (20_memory.md R60,
R69); the parameters must meet the constraints of 00_scope.md R7. -/

namespace Sys2Proof

/-- Every command is well formed: it has no immediate and no register operand (30_encoding.md R91). -/
def Instr.wellFormed : Instr → Bool
  | .nop => true
  | .mask => true
  | .denc => true
  | .ddec => true
  | .b64e => true
  | .b64d => true
  | .penc => true
  | .pdec => true

/-- An offset the interface has: `off mod 4 = 0` and `0 <= off <= 0x3C` (20_memory.md R60). -/
abbrev Machine.InAperture (off : Nat) : Prop := off % 4 = 0 ∧ off ≤ 0x3C

/-- The width of an access. -/
def Machine.Access.width : Machine.Access → Machine.Width
  | .read w _ => w
  | .write w _ _ => w

/-- The offset of an access. -/
def Machine.Access.off : Machine.Access → Nat
  | .read _ o => o
  | .write _ o _ => o

/-- An access that is part of the interface (20_memory.md R60): a whole word at an offset of the aperture. -/
abbrev Machine.Access.WellFormed (a : Machine.Access) : Prop := a.width = .word ∧ Machine.InAperture a.off

/-- A character that `ALPHABET` and `PAD` may hold: `0x21..0x7E` (00_scope.md R7). -/
abbrev Printable (c : Byte) : Prop := 0x21 ≤ c.toNat ∧ c.toNat ≤ 0x7E

/-- The constraints of 00_scope.md R7 on the parameters. -/
abbrev Config.Valid (c : Config) : Prop :=
  c.alphabet.toList.Nodup ∧ (∀ x ∈ c.alphabet.toList, Printable x) ∧ Printable c.pad ∧
    c.pad ∉ c.alphabet.toList ∧ 1 ≤ c.bufBytes ∧ c.bufBytes ≤ 2 ^ 31

end Sys2Proof
end

