-- ==== Sys2Proof/Machine/HostPort.lean ====
section
/-! DEFINITION. Machine/HostPort.lean: the host's accesses (20_memory.md R60 to R70, R77; 10_state.md R20 to R29). -/

namespace Sys2Proof.Machine

/-- The register an offset of the aperture selects; `none` for the reserved offsets `0x18..0x3C` (20_memory.md R61). -/
def regAt (off : Nat) : Option Reg :=
  match off with
  | 0x00 => some .ctrl
  | 0x04 => some .status
  | 0x08 => some .cmd
  | 0x0C => some .len
  | 0x10 => some .dptr
  | 0x14 => some .ddata
  | _ => none

/-- The offset of a register, `off(reg)` of the host notation (10_state.md R20, 30_encoding.md R97). -/
def regOffset : Reg → Nat
  | .ctrl => 0x00
  | .status => 0x04
  | .cmd => 0x08
  | .len => 0x0C
  | .dptr => 0x10
  | .ddata => 0x14

/-- A read of `DDATA`: the value returned and the state after it (20_memory.md R65). -/
def State.readPort (s : State) : Word × State :=
  if s.busy then (0, s.setAv)
  else if s.cfg.bufBytes ≤ s.dptr.toNat then (0, s.setAv.advanceDptr)
  else ((s.memRead s.dptr.toNat).setWidth 32, s.advanceDptr)

/-- A write of `DDATA` (20_memory.md R66). -/
def State.writePort (v : Word) (s : State) : State :=
  if s.busy then s.setAv
  else if s.cfg.bufBytes ≤ s.dptr.toNat then s.setAv.advanceDptr
  else (s.memWrite s.dptr.toNat (v.setWidth 8)).advanceDptr

/-- A write of `LEN` (20_memory.md R63). -/
def State.writeLen (v : Word) (s : State) : State := if s.busy then s.setAv else { s with len := v }

/-- A write of `DPTR` (20_memory.md R63). -/
def State.writeDptr (v : Word) (s : State) : State := if s.busy then s.setAv else { s with dptr := v }

/-- `HostRead(off)`: the value returned and the state after it (20_memory.md R62). -/
def State.hostRead (off : Nat) (s : State) : Word × State :=
  match regAt off with
  | some .ctrl => (s.ctrlWord, s)
  | some .status => (s.statusWord, s)
  | some .cmd => (0, s)
  | some .len => (s.len, s)
  | some .dptr => (s.dptr, s)
  | some .ddata => s.readPort
  | none => (0, s)

/-- `HostWrite(off, v)` (20_memory.md R63). -/
def State.hostWrite (off : Nat) (v : Word) (s : State) : State :=
  match regAt off with
  | some .ctrl => s.writeCtrl v
  | some .status => s.writeStatus v
  | some .cmd => s.issue v
  | some .len => s.writeLen v
  | some .dptr => s.writeDptr v
  | some .ddata => s.writePort v
  | none => s

/-- The host takes the value a read returned (log entry 6). -/
def State.record (r : Word × State) : State := { r.2 with results := r.1 :: r.2.results }

/-- The offset in the aperture that an address on the host's bus selects: the aperture is the 64 bytes from `BXM_BASE`
on, and the block occupies nothing else of any address space (20_memory.md R77). -/
def busOffset (c : Config) (addr : Nat) : Option Nat :=
  if c.base ≤ addr ∧ addr < c.base + 0x40 then some (addr - c.base) else none

/-- The access of the block that a bus access makes, if its address lies in the aperture (20_memory.md R77). -/
def busToAccess (c : Config) : Access → Option Access
  | .read w addr => (busOffset c addr).map (.read w)
  | .write w addr v => (busOffset c addr).map (.write w · v)

/-- An event with a bus address in the aperture replaced by its offset; every other event as it is. -/
def Event.resolve (c : Config) : Event → Event
  | .bus a =>
    match busToAccess c a with
    | some b => .access b
    | none => .bus a
  | .access a => .access a
  | .engine => .engine
  | .reset => .reset

/-- One host access. An access that is not part of the interface has no step (20_memory.md R69). -/
def hostAccess (a : Access) (s : State) : Host.Outcome State Fault Refusal :=
  if a.WellFormed then
    match a with
    | .read _ off => .next (State.record (s.hostRead off))
    | .write _ off v => .next (s.hostWrite off v)
  else .refused .accessOutsideInterface

end Sys2Proof.Machine
end

