-- ==== Sys2Proof/Machine/Engine.lean ====
section
/-! DEFINITION. Machine/Engine.lean: the engine's turn (43_pipeline.md R187) and what one event does. -/

namespace Sys2Proof.Machine

/-- The engine's turn: while `BUSY = 1` it performs the pending command; else it is idle and nothing changes
(43_pipeline.md R187; 60_exceptions.md R216; log entry 4). -/
def engineTurn (s : State) : Host.Outcome State Fault Refusal :=
  if s.busy then
    match decode s.fetch with
    | .ok i => exec i s
    | .error _ => .fault .pendOpUnassigned
  else .next s

/-- What one event of the interleaving does (20_memory.md R71; 70_reset_and_hazards.md R230). A bus access outside the
aperture has no step, like every access that is no part of the interface (20_memory.md R69, R77, R78). -/
def runEvent (e : Event) (s : State) : Host.Outcome State Fault Refusal :=
  match e.resolve s.cfg with
  | .access a => hostAccess a s
  | .bus _ => .refused .accessOutsideInterface
  | .engine => engineTurn s
  | .reset => .next s.hardReset

/-- One step: the next event of the interleaving; with no event left the engine moves, so that a pending command
completes (70_reset_and_hazards.md R246, weak fairness; log entry 4). -/
def stepNext (s : State) : Host.Outcome State Fault Refusal :=
  match s.events with
  | [] => engineTurn s
  | e :: rest => runEvent e { s with events := rest }

/-- The state in which the very next step performs the command with word `w` (log entry 9). A legal word is pending,
as an accepted issue leaves it (43_pipeline.md R180), and the engine moves next; for an illegal word, which never
becomes pending, the host's write of it to `CMD` is the next event. -/
def placeCommand (s : State) (nbits w : Nat) : State :=
  match decodeTableWord nbits w with
  | some i =>
    { s.acceptCommand (opcode i) with
      events := match s.events with
        | [] => []
        | es => .engine :: es }
  | none => { s with busy := false, events := .access (.write .word 0x08 (BitVec.ofNat 32 w)) :: s.events }

end Sys2Proof.Machine
end

