-- ==== Sys2Proof/Machine/Step.lean ====
section
/-! DEFINITION. Machine/Step.lean: one step of the machine, and the placing of a command for it to run. -/

namespace Sys2Proof.Machine

/-- One step: the next event of the interleaving of host accesses and engine steps (20_memory.md R71). -/
def step (s : State) : Host.Outcome State Fault Refusal := stepNext s

/-- `s` with the command whose bits are `w` placed so that the next step performs it (log entry 9). -/
def State.withFetchWord (s : State) (nbits w : Nat) : State := placeCommand s nbits w

end Sys2Proof.Machine
end

