-- ==== Sys2Proof/Machine/HostProgram.lean ====
section
/-! DEFINITION. Machine/HostProgram.lean: the host program notation and its pseudo-instructions, as the accesses they
make (30_encoding.md R97 to R99). -/

namespace Sys2Proof.Machine

/-- A line of a host program (30_encoding.md R97). A label or an `IF ... GOTO` is host-side control flow. -/
inductive HostLine where
  | wr (r : Reg) (v : Word)
  | rd (r : Reg) (name : String)
  | control (text : String)
  deriving DecidableEq, Repr

/-- The access a line makes, its encoding as a bus transaction; control flow makes none (30_encoding.md R97). -/
def lineAccess : HostLine → Option Access
  | .wr r v => some (.write .word (regOffset r) v)
  | .rd r _ => some (.read .word (regOffset r))
  | .control _ => none

/-- `WR <reg>, <value>` as an event. -/
def wr (r : Reg) (v : Word) : Event := .access (.write .word (regOffset r) v)

/-- `RD <reg>` as an event. -/
def rd (r : Reg) : Event := .access (.read .word (regOffset r))

/-- `ISSUE <mnemonic>` (30_encoding.md R98). -/
def issueOf (i : Instr) : List Event := [wr .cmd (encode i)]

/-- `LOAD b0, ..., b(n-1)` (30_encoding.md R98). -/
def loadOf (msg : List Byte) : List Event :=
  wr .dptr 0 :: (msg.map fun b => wr .ddata (b.setWidth 32)) ++ [wr .len (BitVec.ofNat 32 msg.length)]

/-- `WAIT` whose loop is left after `polls` reads of `STATUS` (30_encoding.md R98). -/
def waitOf (polls : Nat) : List Event := List.replicate polls (rd .status)

/-- The loop of `WAIT` goes on while `(t & 1) != 0` (30_encoding.md R98). -/
def waitGoesOn (t : Word) : Bool := t &&& 1 ≠ 0

/-- `UNLOAD` of `n` bytes, `n` the value its read of `LEN` returned (30_encoding.md R98). -/
def unloadOf (n : Nat) : List Event := rd .len :: wr .dptr 0 :: List.replicate n (rd .ddata)

/-- `ACK` (30_encoding.md R98). -/
def ackOf : List Event := [wr .status 0x00000006]

end Sys2Proof.Machine
end

