-- ==== Sys2Proof/Safety.lean ====
section
/-! DEFINITION. Safety.lean: the invariant of the block and the terms its claims are stated in: how a command ends, what
it leaves alone, and the transforms written index by index from the spec's formulas, apart from the model's own
functions. -/

namespace Sys2Proof.Machine

/-- The state invariant: the buffer keeps its one form and lists only indices below `BUF_BYTES` (10_state.md R30); while
`BUSY = 1`, `DONE = 0`, `ERR = 0` (R24) and `PEND_OP` is one of the eight opcodes (43_pipeline.md R187); the parameters
meet 00_scope.md R7. -/
structure State.Inv (s : State) : Prop where
  dataWf : Memory.wf s.data
  dataBound : ∀ x ∈ s.data, x.1 < s.cfg.bufBytes
  busyDone : s.busy = true → s.done = false
  busyErr : s.busy = true → s.err = .none
  busyOp : s.busy = true → s.pendOp.toNat < 8
  cfgValid : s.cfg.Valid

/-- An event that is part of the interface of a block with parameters `c`: every one but an access 20_memory.md R69
excludes and a bus access outside the aperture (R77). -/
def Event.Admitted (c : Config) (e : Event) : Prop :=
  match e.resolve c with
  | .access a => a.WellFormed
  | .bus _ => False
  | .engine => True
  | .reset => True

/-! ## How a command ends -/

/-- The state after a command failed with code `e`: only `STATUS` differs (60_exceptions.md R203). That `PEND_OP` too is
as before is DESIGN CHOICE where U7 leaves it any value (log entry 5). -/
def failedWith (e : ErrCode) (s : State) : State := { s with err := e, busy := false, done := true }

/-- What no command touches (43_pipeline.md R181; 60_exceptions.md R203). The clause `pendOp` is the model's: DESIGN CHOICE,
since the spec leaves `PEND_OP` any value while `BUSY = 0` (93_implementation_defined.md U7; log entry 5). -/
structure CommandFrame (s t : State) : Prop where
  ie : t.ie = s.ie
  av : t.av = s.av
  dptr : t.dptr = s.dptr
  pendOp : t.pendOp = s.pendOp
  cfg : t.cfg = s.cfg
  draws : t.draws = s.draws
  events : t.events = s.events
  results : t.results = s.results

/-- `t` is `s` after a command that succeeded with the `n` output bytes `out 0` to `out (n - 1)` (43_pipeline.md R181). -/
structure Completed (s t : State) (n : Nat) (out : Nat → Byte) : Prop where
  err : t.err = .none
  busy : t.busy = false
  done : t.done = true
  len : t.len.toNat = n
  inside : ∀ i, i < n → t.memRead i = out i
  outside : ∀ i, n ≤ i → t.memRead i = s.memRead i
  frame : CommandFrame s t

/-- The bytes a command stores, by the functions its meaning uses: they go to `DATA` from index 0 up; none on a failure
and none for NOP (43_pipeline.md R181, R183; 60_exceptions.md R203). -/
def storedBytes (i : Instr) (s : State) : List Byte :=
  let r : Except ErrCode (List Byte) :=
    match i with
    | .nop => .ok []
    | .mask => maskResult s
    | .denc => dencResult s
    | .ddec => ddecResult s
    | .b64e => b64eResult s
    | .b64d => b64dResult s
    | .penc => pencResult s
    | .pdec => pdecResult s
  match r with
  | .ok out => out
  | .error _ => []

/-- The error codes each command can end with (the table of 60_exceptions.md R202). -/
def possibleErrors : Instr → List ErrCode
  | .nop => []
  | .mask => [.capacity]
  | .denc => [.capacity]
  | .ddec => [.capacity]
  | .b64e => [.capacity]
  | .b64d => [.invalidCharacter, .invalidLength, .capacity]
  | .penc => [.capacity]
  | .pdec => [.invalidCharacter, .invalidLength, .capacity]

/-! ## The transforms, index by index -/

/-- `MB(j) = MASK[31-8j : 24-8j]` (40_mask.md R110). -/
def specMaskByte (m : Word) (j : Nat) : Byte := (m >>> (24 - 8 * j)).setWidth 8

/-- Index `i` of a message of length `L` is interior: `leadPad <= i < L - trailPad` (40_mask.md R111, R112). -/
abbrev specInterior (L i : Nat) : Prop := L % 4 ≤ i ∧ i + (if L % 4 ≠ 0 then 4 - L % 4 else 0) < L

/-- Byte `i` of the masked message, `f` giving the bytes of a message of length `L` (40_mask.md R112). -/
def specMasked (m : Word) (L : Nat) (f : Nat → Byte) (i : Nat) : Byte :=
  if specInterior L i then f i ^^^ specMaskByte m ((i - L % 4) % 4) else f i

/-- `KEY(f 0) xor ... xor KEY(f (j-1))`, the accumulator of 41_diffusion.md R136 before byte `j`. -/
def keysBefore (f : Nat → Byte) (j : Nat) : Byte := (List.range j).foldl (fun acc i => acc ^^^ key (f i)) 0

/-- Character `i` of the base64 encoding of the `n` bytes `f 0` to `f (n - 1)`: chunk `i / 4` has `k` bytes, which make a
24-bit value padded with zero bytes; position `i % 4` is a padding character when it lies above `k`, else the letter of
its 6-bit group (42_base64.md R151, R152). -/
def specEncoded (c : Config) (n : Nat) (f : Nat → Byte) (i : Nat) : Byte :=
  let q := i / 4
  let p := i % 4
  let k := min 3 (n - 3 * q)
  let at_ (j : Nat) : Nat := if j < n then (f j).toNat else 0
  let w := at_ (3 * q) * 65536 + at_ (3 * q + 1) * 256 + at_ (3 * q + 2)
  if k < p then c.pad else c.alphabet.get (Fin.ofNat 64 (w / 64 ^ (3 - p)))

/-- The padding count of the final chunk of a character sequence (42_base64.md R155): 2 for `xx==`, 1 for `xxx=`. -/
def specPads (c : Config) (t : List Byte) : Nat :=
  if t.length = 0 then 0
  else if t.getD (t.length - 2) 0 = c.pad ∧ t.getD (t.length - 1) 0 = c.pad then 2
  else if t.getD (t.length - 1) 0 = c.pad then 1
  else 0

/-- Byte `j` of the decoding of characters with the 6-bit values `v`: byte `j % 3` of the 24-bit value of chunk `j / 3`
(42_base64.md R155). -/
def specDecoded (v : Nat → Fin 64) (j : Nat) : Byte :=
  let q := j / 3
  let w := (v (4 * q)).val * 64 ^ 3 + (v (4 * q + 1)).val * 64 ^ 2 + (v (4 * q + 2)).val * 64 + (v (4 * q + 3)).val
  BitVec.ofNat 8 (w / 256 ^ (2 - j % 3))

/-! ## The host's accesses -/

/-- An access violation: a write of `CMD`, `LEN`, `DPTR` or `DDATA` while busy, a read of `DDATA` while busy, or an access
to `DDATA` with `DPTR >= BUF_BYTES` (60_exceptions.md R204), named by its offset or by its bus address. -/
def Violates (e : Event) (s : State) : Prop :=
  match e.resolve s.cfg with
  | .access (.write _ off _) =>
    (s.busy = true ∧ (off = 0x08 ∨ off = 0x0C ∨ off = 0x10 ∨ off = 0x14)) ∨
      (off = 0x14 ∧ s.cfg.bufBytes ≤ s.dptr.toNat)
  | .access (.read _ off) => off = 0x14 ∧ (s.busy = true ∨ s.cfg.bufBytes ≤ s.dptr.toNat)
  | .bus _ => False
  | .engine => False
  | .reset => False

/-- What clears `STATUS.AV`: a `STATUS` write with bit 2 set, or a reset (60_exceptions.md R204). -/
def ClearsAv (e : Event) (s : State) : Prop :=
  match e.resolve s.cfg with
  | .access (.write _ off v) => off = 0x04 ∧ v.getLsbD 2 = true
  | .access (.read _ _) => False
  | .bus _ => False
  | .engine => False
  | .reset => True

/-- What clears `STATUS.DONE`: a `STATUS` write with bit 1 set, an accepted `CMD` write of a legal word, or a reset
(60_exceptions.md R208). A `CMD` write of an illegal word clears it and sets it again at once (43_pipeline.md R180). -/
def ClearsDone (e : Event) (s : State) : Prop :=
  match e.resolve s.cfg with
  | .access (.write _ off v) =>
    (off = 0x04 ∧ v.getLsbD 1 = true) ∨ (off = 0x08 ∧ s.busy = false ∧ v.toNat < 8)
  | .access (.read _ _) => False
  | .bus _ => False
  | .engine => False
  | .reset => True

end Sys2Proof.Machine
end

