-- ==== Sys2Proof/Certificates/Slice0/Obligations.lean ====
section
/-! DEFINITION. Certificates/Slice0/Obligations.lean: the statements, each a Prop. A docstring names the rule of spec/ a
statement formalises. The free values of DATA and the parameters are universally quantified in all of them. -/

open Sys2Proof Sys2Proof.Machine

/-! ## Encoding -/

/-- 30_encoding.md R95: `Decode` reads exactly the eight words of the table, and every other word is illegal. -/
def Obligations.DecodeReadsExactlyTheEightWords : Prop :=
  ∀ v : Word,
    (∀ i : Instr, decode v = .ok i ↔
      (v = 0x00000000 ∧ i = .nop) ∨ (v = 0x00000001 ∧ i = .mask) ∨ (v = 0x00000002 ∧ i = .denc) ∨
        (v = 0x00000003 ∧ i = .ddec) ∨ (v = 0x00000004 ∧ i = .b64e) ∨ (v = 0x00000005 ∧ i = .b64d) ∨
        (v = 0x00000006 ∧ i = .penc) ∨ (v = 0x00000007 ∧ i = .pdec)) ∧
    ((∃ e, decode v = .error e) ↔ v.toNat / 2 ^ 8 ≠ 0 ∨ 0x08 ≤ v.toNat % 2 ^ 8)

/-- 30_encoding.md section 2 (R92, R95): decoding the encoding of a command gives it back, also as the host's table word. -/
def Obligations.DecodeOfEncodeIsTheCommand : Prop :=
  ∀ i : Instr, i.wellFormed = true → decode (encode i) = .ok i ∧ decodeTableWord 32 (encode i).toNat = some i

/-- 30_encoding.md section 2: three words of the table and two illegal words, written out. -/
def Obligations.TableWordsDecodeAsWritten : Prop :=
  decode 0b00000000000000000000000000000000#32 = .ok .nop ∧
    decode 0b00000000000000000000000000000101#32 = .ok .b64d ∧
    decode 0b00000000000000000000000000000110#32 = .ok .penc ∧
    decode 0b00000000000000000000000100000000#32 = .error .reservedNotZero ∧
    decode 0b00000000000000000000000000001000#32 = .error .opcodeUnassigned

/-! ## The step -/

/-- 43_pipeline.md section 1 (R187): while `BUSY = 1` the engine's turn performs the command in `PEND_OP`; with `BUSY = 0` it
is idle. With no event left the turn is the engine's (log entry 4, DESIGN CHOICE). -/
def Obligations.StepRunsThePendingCommand : Prop :=
  ∀ s : State,
    (∀ i : Instr, s.busy = true → decode (s.pendOp.setWidth 32) = .ok i →
      (s.events = [] → step s = exec i s) ∧
      (∀ rest, s.events = .engine :: rest → step s = exec i { s with events := rest })) ∧
    (s.busy = false →
      (s.events = [] → step s = .next s) ∧
      (∀ rest, s.events = .engine :: rest → step s = .next { s with events := rest }))

/-- 20_memory.md section 4 (R71): a step performs the next host access or reset of the interleaving, and only that. -/
def Obligations.StepPerformsTheNextEvent : Prop :=
  ∀ (s : State) (rest : List Event),
    (∀ a, s.events = .access a :: rest → step s = hostAccess a { s with events := rest }) ∧
    (s.events = .reset :: rest → step s = .next (State.hardReset { s with events := rest }))

/-- The model's own (log entry 9): a placed legal word is performed by the very next step, on the same `DATA` and `LEN`;
a placed illegal word ends at once with `ILLEGAL_COMMAND`, as 43_pipeline.md R180 says of its issue. -/
def Obligations.PlacedWordRunsInTheNextStep : Prop :=
  ∀ s : State,
    (∀ i : Instr, ∃ u, step (s.withFetchWord 32 (encode i).toNat) = exec i u ∧ u.data = s.data ∧ u.len = s.len ∧
      u.cfg = s.cfg ∧ u.dptr = s.dptr ∧ u.draws = s.draws ∧ u.events = s.events ∧ u.results = s.results ∧
      u.busy = true) ∧
    (∀ w, 8 ≤ w → w < 2 ^ 32 →
      step (s.withFetchWord 32 w) = .next { s with err := .illegalCommand, busy := false, done := true })

/-! ## NOP -/

/-- 43_pipeline.md section 2 (R183). That `PEND_OP` keeps its opcode is the model's choice (log entry 5, DESIGN CHOICE). -/
def Obligations.NopOnlyEndsWithSuccess : Prop :=
  decode 0x00000000 = .ok .nop ∧
    (∀ s : State, exec .nop s = .next { s with err := .none, busy := false, done := true }) ∧
    (∀ (s : State) (rest : List Event), s.busy = false → s.av = false →
      s.events = .access (.write .word 0x08 0x00000000) :: .engine :: rest →
      ∃ t, Host.Core.run core 2 s = .next t ∧ t.statusWord = 0x00000002)

/-! ## MASK -/

/-- 40_mask.md R111 and R112: the masked message byte by byte, the mask bytes from R110. -/
def Obligations.MaskApplyByteFormula : Prop :=
  ∀ (m : Word) (s : List Byte),
    (maskApply m s).length = s.length ∧
    (s.length < s.length % 4 + (if s.length % 4 ≠ 0 then 4 - s.length % 4 else 0) → maskApply m s = s) ∧
    (∀ i, i < s.length → (maskApply m s)[i]? = some (specMasked m s.length (fun j => s.getD j 0) i))

/-- 40_mask.md section 2 (R113). That `PEND_OP` keeps its opcode is the model's choice (log entry 5, DESIGN CHOICE). -/
def Obligations.MaskCommandInPlace : Prop :=
  decode 0x00000001 = .ok .mask ∧
    ∀ s : State,
      (s.cfg.bufBytes < s.len.toNat → exec .mask s = .next (failedWith .capacity s)) ∧
      (s.len.toNat ≤ s.cfg.bufBytes →
        ∃ t, exec .mask s = .next t ∧ Completed s t s.len.toNat (specMasked s.cfg.mask s.len.toNat s.memRead))

/-- 40_mask.md R114: `MaskApply` is self-inverse, and MASK twice restores the message. -/
def Obligations.MaskTwiceRestores : Prop :=
  (∀ (m : Word) (s : List Byte), maskApply m (maskApply m s) = s) ∧
    (∀ s : State, s.len.toNat ≤ s.cfg.bufBytes →
      ∃ t u, exec .mask s = .next t ∧ exec .mask t = .next u ∧ u.len = s.len ∧ u.err = .none ∧
        ∀ i, u.memRead i = s.memRead i)

/-- 40_mask.md R115 (with R111): the interior `[leadPad, L - trailPad)` is where `MaskApply` changes a message, read off
the masked message itself under a mask without a zero byte; its length; the mask byte applied at each of its indices; and
that the mask cycle can stop at any of `m0` to `m3`. -/
def Obligations.InteriorLength : Prop :=
  (∀ L : Nat, leadPad L = L % 4 ∧ trailPad L = if L % 4 = 0 then 0 else 4 - L % 4) ∧
  (∀ (m : Word) (s : List Byte), (∀ j, j < 4 → specMaskByte m j ≠ 0) →
    (∀ i, (maskApply m s)[i]? ≠ s[i]? ↔ leadPad s.length ≤ i ∧ i < s.length - trailPad s.length) ∧
    ((List.range s.length).filter fun i => decide ((maskApply m s)[i]? ≠ s[i]?)).length =
      (if s.length % 4 = 0 then s.length else if 4 ≤ s.length then s.length - 4 else 0)) ∧
  (∀ (m : Word) (s : List Byte) (i : Nat), leadPad s.length ≤ i → i < s.length - trailPad s.length →
    (maskApply m s)[i]? = some (s.getD i 0 ^^^ specMaskByte m ((i - leadPad s.length) % 4))) ∧
  (∀ r, r < 4 → ∃ L, 4 ≤ L ∧ (L - trailPad L - leadPad L) % 4 = r)

/-! ## DENC and DDEC -/

/-- 41_diffusion.md section 2 (R131): the key table is `floor(2π·h) mod 256` in exact real arithmetic. -/
def Obligations.KeyIsFloorOfTwoPiH : Prop :=
  ∀ h : Byte, ((key h).toNat : ℤ) = ⌊2 * Real.pi * (h.toNat : ℝ)⌋ % 256

/-- 41_diffusion.md R134 and R135: the two transforms by recursion on the message. -/
def Obligations.DiffusionRecursion : Prop :=
  (diffEnc [] = [] ∧ (∀ h, diffEnc [h] = [h]) ∧
    (∀ h t, t ≠ [] → diffEnc (h :: t) = h :: (diffEnc t).map (· ^^^ key h)) ∧
    (∀ s, (diffEnc s).length = s.length)) ∧
  (diffDec [] = [] ∧ (∀ h, diffDec [h] = [h]) ∧
    (∀ h t, t ≠ [] → diffDec (h :: t) = h :: diffDec (t.map (· ^^^ key h))) ∧
    (∀ c, (diffDec c).length = c.length))

/-- 41_diffusion.md R136: the iterative forms and the closed form of the encode direction. -/
def Obligations.DiffusionScan : Prop :=
  (∀ s : List Byte, diffEnc s =
    (s.foldl (fun (ra : List Byte × Byte) b => (ra.1 ++ [b ^^^ ra.2], ra.2 ^^^ key b)) ([], 0)).1) ∧
  (∀ c : List Byte, diffDec c =
    (c.foldl (fun (pa : List Byte × Byte) b => (pa.1 ++ [b ^^^ pa.2], pa.2 ^^^ key (b ^^^ pa.2))) ([], 0)).1) ∧
  (∀ (s : List Byte) (j : Nat), j < s.length →
    (diffEnc s)[j]? = some (s.getD j 0 ^^^ keysBefore (fun i => s.getD i 0) j))

/-- 41_diffusion.md section 4 (R137). That `PEND_OP` keeps its opcode is the model's choice (log entry 5, DESIGN
CHOICE). -/
def Obligations.DencCommandInPlace : Prop :=
  decode 0x00000002 = .ok .denc ∧
    ∀ s : State,
      (s.cfg.bufBytes < s.len.toNat → exec .denc s = .next (failedWith .capacity s)) ∧
      (s.len.toNat ≤ s.cfg.bufBytes →
        ∃ t, exec .denc s = .next t ∧
          Completed s t s.len.toNat (fun j => s.memRead j ^^^ keysBefore s.memRead j))

/-- 41_diffusion.md section 4 (R138): decode takes its keys from the output bytes (R136). That `PEND_OP` keeps its opcode is
the model's choice (log entry 5, DESIGN CHOICE). -/
def Obligations.DdecCommandInPlace : Prop :=
  decode 0x00000003 = .ok .ddec ∧
    ∀ s : State,
      (s.cfg.bufBytes < s.len.toNat → exec .ddec s = .next (failedWith .capacity s)) ∧
      (s.len.toNat ≤ s.cfg.bufBytes →
        ∃ t, exec .ddec s = .next t ∧
          Completed s t s.len.toNat (fun j => s.memRead j ^^^ keysBefore t.memRead j))

/-- 41_diffusion.md R139: each direction undoes the other, and DENC and DDEC in either order restore the message. -/
def Obligations.DiffusionInverse : Prop :=
  (∀ s : List Byte, diffDec (diffEnc s) = s ∧ diffEnc (diffDec s) = s) ∧
    (∀ s : State, s.len.toNat ≤ s.cfg.bufBytes →
      (∃ t u, exec .denc s = .next t ∧ exec .ddec t = .next u ∧ u.len = s.len ∧ u.err = .none ∧
        ∀ i, u.memRead i = s.memRead i) ∧
      (∃ t u, exec .ddec s = .next t ∧ exec .denc t = .next u ∧ u.len = s.len ∧ u.err = .none ∧
        ∀ i, u.memRead i = s.memRead i))

/-! ## B64E and B64D -/

/-- 42_base64.md R151 and R152: every character of the encoding, by the 24-bit value of its chunk. -/
def Obligations.Base64EncodeCharFormula : Prop :=
  ∀ (c : Config) (s : List Byte),
    (b64Enc c s).length = 4 * ((s.length + 2) / 3) ∧
    (∀ i, i < 4 * ((s.length + 2) / 3) →
      (b64Enc c s)[i]? = some (specEncoded c s.length (fun j => s.getD j 0) i))

/-- 42_base64.md R153: the encoded length, and that `PAD` stands at the end only, 2, 1 or 0 times. -/
def Obligations.EncodedLengthAndPadding : Prop :=
  ∀ c : Config, c.Valid → ∀ s : List Byte,
    (b64Enc c s).length = 4 * ((s.length + 2) / 3) ∧ (b64Enc c s).length % 4 = 0 ∧ b64Enc c [] = [] ∧
    (∀ i, (b64Enc c s)[i]? = some c.pad ↔
      (s.length % 3 = 1 ∧ (i + 2 = (b64Enc c s).length ∨ i + 1 = (b64Enc c s).length)) ∨
        (s.length % 3 = 2 ∧ i + 1 = (b64Enc c s).length))

/-- 42_base64.md R154 and R155: the length check, and every outcome of decoding. `v` gives the 6-bit values of the
characters before the padding, and 0 from there on. -/
def Obligations.Base64DecodeOutcome : Prop :=
  ∀ c : Config, c.Valid → ∀ t : List Byte,
    (t.length % 4 ≠ 0 → b64Dec c t = .error .invalidLength) ∧
    b64Dec c [] = .ok [] ∧
    (t.length % 4 = 0 →
      (∃ i, i < t.length - specPads c t ∧ ∀ g : Fin 64, c.alphabet.get g ≠ t.getD i 0) →
      b64Dec c t = .error .invalidCharacter) ∧
    (t.length % 4 = 0 → ∀ v : Nat → Fin 64,
      (∀ i, i < t.length - specPads c t → c.alphabet.get (v i) = t.getD i 0) →
      (∀ i, t.length - specPads c t ≤ i → v i = 0) →
      ∃ r, b64Dec c t = .ok r ∧ r.length = 3 * (t.length / 4) - specPads c t ∧
        ∀ j, j < r.length → r[j]? = some (specDecoded v j))

/-- 42_base64.md R157: the discarded bits of the final chunk do not reach the output. -/
def Obligations.NonCanonicalBitsIgnored : Prop :=
  (∀ c : Config, c.Valid → ∀ (front : List Byte) (x : Byte) (v w : Fin 64), front.length % 4 = 0 →
    v.val / 16 = w.val / 16 →
    b64Dec c (front ++ [x, c.alphabet.get v, c.pad, c.pad]) =
      b64Dec c (front ++ [x, c.alphabet.get w, c.pad, c.pad])) ∧
  (∀ c : Config, c.Valid → ∀ (front : List Byte) (x y : Byte) (v w : Fin 64), front.length % 4 = 0 →
    v.val / 4 = w.val / 4 →
    b64Dec c (front ++ [x, y, c.alphabet.get v, c.pad]) = b64Dec c (front ++ [x, y, c.alphabet.get w, c.pad])) ∧
  b64Dec referenceProfile [0x5A, 0x68, 0x3D, 0x3D] = .ok [0x66] ∧
  b64Dec referenceProfile [0x5A, 0x67, 0x3D, 0x3D] = .ok [0x66]

/-- 42_base64.md R161. -/
def Obligations.Base64RoundTrip : Prop :=
  ∀ c : Config, c.Valid → ∀ s : List Byte, b64Dec c (b64Enc c s) = .ok s

/-- 42_base64.md R162: what encoding produces, and that decoding rejects every other character. -/
def Obligations.Base64CharacterSet : Prop :=
  ∀ c : Config, c.Valid →
    (∀ (s : List Byte) (x : Byte), x ∈ b64Enc c s → x ∈ c.alphabet.toList ∨ x = c.pad) ∧
    (∀ (t : List Byte) (x : Byte), t.length % 4 = 0 → x ∈ t → x ∉ c.alphabet.toList → x ≠ c.pad →
      b64Dec c t = .error .invalidCharacter)

/-- 42_base64.md section 4 (R159). `BUF_BYTES <= 2^31` is 00_scope.md R7's constraint. That `PEND_OP` keeps its opcode is
the model's choice (log entry 5, DESIGN CHOICE). -/
def Obligations.B64eCommandInPlace : Prop :=
  decode 0x00000004 = .ok .b64e ∧
    ∀ s : State, s.cfg.bufBytes ≤ 2 ^ 31 →
      (s.cfg.bufBytes < s.len.toNat ∨ s.cfg.bufBytes < 4 * ((s.len.toNat + 2) / 3) →
        exec .b64e s = .next (failedWith .capacity s)) ∧
      (4 * ((s.len.toNat + 2) / 3) ≤ s.cfg.bufBytes →
        ∃ t, exec .b64e s = .next t ∧
          Completed s t (4 * ((s.len.toNat + 2) / 3)) (specEncoded s.cfg s.len.toNat s.memRead))

/-- 42_base64.md section 4 (R160); what `B64Dec` gives is pinned by Base64DecodeOutcome. That `PEND_OP` keeps its opcode is
the model's choice (log entry 5, DESIGN CHOICE). -/
def Obligations.B64dCommandInPlace : Prop :=
  decode 0x00000005 = .ok .b64d ∧
    ∀ s : State,
      (s.cfg.bufBytes < s.len.toNat → exec .b64d s = .next (failedWith .capacity s)) ∧
      (s.len.toNat ≤ s.cfg.bufBytes →
        (∀ e, b64Dec s.cfg s.message = .error e →
          (e = .invalidLength ∨ e = .invalidCharacter) ∧ exec .b64d s = .next (failedWith e s)) ∧
        (∀ r, b64Dec s.cfg s.message = .ok r →
          r.length ≤ s.len.toNat ∧
            ∃ t, exec .b64d s = .next t ∧ Completed s t r.length (fun i => r.getD i 0)))

/-- 42_base64.md R160 with R154 and R155: B64D answers a next state on every state, and a message the codec made decodes to
what was encoded. -/
def Obligations.B64dUndoesB64e : Prop :=
  (∀ s : State, ∃ t, exec .b64d s = .next t) ∧
    (∀ s : State, s.cfg.Valid → 4 * ((s.len.toNat + 2) / 3) ≤ s.cfg.bufBytes →
      ∃ t u, exec .b64e s = .next t ∧ exec .b64d t = .next u ∧ u.err = .none ∧ u.len = s.len ∧
        ∀ i, i < s.len.toNat → u.memRead i = s.memRead i)

/-! ## PENC and PDEC -/

/-- 43_pipeline.md section 2 (R184): PENC is MASK, then DENC, then B64E, in one command; it fails with `CAPACITY` only.
That `PEND_OP` keeps its opcode is the model's choice (log entry 5, DESIGN CHOICE). -/
def Obligations.PencIsMaskDencB64e : Prop :=
  decode 0x00000006 = .ok .penc ∧
    ∀ s : State, s.cfg.bufBytes ≤ 2 ^ 31 →
      (s.cfg.bufBytes < s.len.toNat ∨ s.cfg.bufBytes < 4 * ((s.len.toNat + 2) / 3) →
        exec .penc s = .next (failedWith .capacity s)) ∧
      (4 * ((s.len.toNat + 2) / 3) ≤ s.cfg.bufBytes →
        ∃ t1 t2 t3 t, exec .mask s = .next t1 ∧ exec .denc t1 = .next t2 ∧ exec .b64e t2 = .next t3 ∧
          exec .penc s = .next t ∧ t3.err = .none ∧
          Completed s t (4 * ((s.len.toNat + 2) / 3)) t3.memRead ∧ t.len = t3.len ∧
          ∀ i, t.memRead i = t3.memRead i)

/-- 43_pipeline.md section 2 (R185): PDEC is B64D, then DDEC, then MASK on the decoded length, in one command; its failures
are those of B64D. That `PEND_OP` keeps its opcode is the model's choice (log entry 5, DESIGN CHOICE). -/
def Obligations.PdecIsB64dDdecMask : Prop :=
  decode 0x00000007 = .ok .pdec ∧
    ∀ s : State,
      (s.cfg.bufBytes < s.len.toNat → exec .pdec s = .next (failedWith .capacity s)) ∧
      (s.len.toNat ≤ s.cfg.bufBytes →
        (∀ e, b64Dec s.cfg s.message = .error e → exec .pdec s = .next (failedWith e s)) ∧
        (∀ r, b64Dec s.cfg s.message = .ok r →
          ∃ t1 t2 t3 t, exec .b64d s = .next t1 ∧ exec .ddec t1 = .next t2 ∧ exec .mask t2 = .next t3 ∧
            exec .pdec s = .next t ∧ Completed s t r.length t3.memRead ∧ t.len = t3.len ∧
            ∀ i, t.memRead i = t3.memRead i))

/-- 43_pipeline.md R186: load any message that fits, then PENC, then PDEC, each after the previous completion. -/
def Obligations.PipelineRoundTrip : Prop :=
  ∀ (s : State) (msg : List Byte) (rest : List Event),
    s.cfg.Valid → s.busy = false → 4 * ((msg.length + 2) / 3) ≤ s.cfg.bufBytes →
    s.events = loadOf msg ++ issueOf .penc ++ [.engine] ++ issueOf .pdec ++ [.engine] ++ rest →
    ∃ t, Host.Core.run core (msg.length + 6) s = .next t ∧ t.len.toNat = msg.length ∧
      (∀ i, i < msg.length → t.memRead i = msg.getD i 0) ∧ t.err = .none ∧ t.done = true ∧ t.busy = false ∧
      t.events = rest

/-! ## Ends of commands -/

/-- 43_pipeline.md section 1 (R181): what `complete(out)` does, for an output that fits; and that a command's output is a
function of the constants and of the message as it stood at the start of its step, and fits. That `PEND_OP` keeps its
opcode is the model's choice (log entry 5, DESIGN CHOICE). -/
def Obligations.CompleteWritesTheOutput : Prop :=
  (∀ (s : State) (out : List Byte), out.length ≤ s.cfg.bufBytes → s.cfg.bufBytes ≤ 2 ^ 31 →
    Completed s (s.complete out) out.length (fun i => out.getD i 0)) ∧
  (∀ i : Instr, i ≠ .nop → ∃ f : Config → List Byte → Except ErrCode (List Byte),
    ∀ s : State, s.len.toNat ≤ s.cfg.bufBytes →
      (∀ out, f s.cfg s.message = .ok out → out.length ≤ s.cfg.bufBytes ∧ exec i s = .next (s.complete out)) ∧
      (∀ e, f s.cfg s.message = .error e → exec i s = .next (failedWith e s)))

/-- 43_pipeline.md section 1 (R182). That `PEND_OP` keeps its opcode is the model's choice (log entry 5, DESIGN CHOICE). -/
def Obligations.CapacityRule : Prop :=
  (∀ (i : Instr) (s : State), i ≠ .nop → s.cfg.bufBytes < s.len.toNat →
    exec i s = .next (failedWith .capacity s)) ∧
  (∀ (i : Instr) (s : State), i = .b64e ∨ i = .penc → s.cfg.bufBytes < 4 * ((s.len.toNat + 2) / 3) →
    exec i s = .next (failedWith .capacity s)) ∧
  (∀ (i : Instr) (s : State), i ≠ .b64e → i ≠ .penc → s.len.toNat ≤ s.cfg.bufBytes →
    (storedBytes i s).length ≤ s.cfg.bufBytes ∧ ∃ t, exec i s = .next t ∧ t.err ≠ .capacity)

/-- 60_exceptions.md R202: the errors each command can end with, and that each of them happens; an illegal word ends with
`ILLEGAL_COMMAND` and no command does. -/
def Obligations.ErrorsOfEachCommand : Prop :=
  (∀ (i : Instr) (s : State), ∃ t, exec i s = .next t ∧ (t.err = .none ∨ t.err ∈ possibleErrors i)) ∧
  (∀ (i : Instr) (e : ErrCode), e ∈ possibleErrors i → ∃ s t, s.Inv ∧ exec i s = .next t ∧ t.err = e) ∧
  (∀ (i : Instr), ErrCode.illegalCommand ∉ possibleErrors i) ∧
  (∀ (s : State) (v : Word), s.busy = false → 8 ≤ v.toNat → (s.issue v).err = .illegalCommand)

/-- 60_exceptions.md section 1 (R203): a failure changes `STATUS` only; an illegal word's failure has the same effect. R203 says that a
failure "leaves exactly the state from before the command, plus the three `STATUS` fields"; that this takes in `PEND_OP`
is the model's choice (log entry 5, DESIGN CHOICE). -/
def Obligations.FailureIsAllOrNothing : Prop :=
  (∀ (i : Instr) (s t : State), exec i s = .next t → t.err ≠ .none →
    t = { s with err := t.err, busy := false, done := true }) ∧
  (∀ (s : State) (v : Word), s.busy = false → 8 ≤ v.toNat →
    s.issue v = { s with err := .illegalCommand, done := true })

/-- 60_exceptions.md R205: the order in which the errors are decided. -/
def Obligations.ErrorPriority : Prop :=
  (∀ (s : State) (v : Word), s.busy = false → 8 ≤ v.toNat → (s.issue v).err = .illegalCommand) ∧
  (∀ (i : Instr) (s : State), i ≠ .nop → s.cfg.bufBytes < s.len.toNat → ∃ t, exec i s = .next t ∧ t.err = .capacity) ∧
  (∀ (i : Instr) (s : State), i = .b64d ∨ i = .pdec → s.len.toNat ≤ s.cfg.bufBytes →
    ∃ t, exec i s = .next t ∧
      (s.len.toNat % 4 ≠ 0 → t.err = .invalidLength) ∧
      (s.len.toNat % 4 = 0 → t.err = .none ∨ t.err = .invalidCharacter)) ∧
  (∀ (i : Instr) (s : State), i = .b64e ∨ i = .penc → s.len.toNat ≤ s.cfg.bufBytes →
    ∃ t, exec i s = .next t ∧
      (s.cfg.bufBytes < 4 * ((s.len.toNat + 2) / 3) → t.err = .capacity) ∧
      (4 * ((s.len.toNat + 2) / 3) ≤ s.cfg.bufBytes → t.err = .none))

/-- 43_pipeline.md section 1 (R181), 60_exceptions.md section 1 (R203): the frame of all eight commands. `DATA` changes only
at the indices the command stores to, below the length of `storedBytes`, which are the meaning's own output. That `PEND_OP`
keeps its opcode is the model's choice (log entry 5, DESIGN CHOICE). -/
def Obligations.FrameOfEveryCommand : Prop :=
  ∀ (i : Instr) (s t : State), exec i s = .next t →
    CommandFrame s t ∧ t.busy = false ∧ t.done = true ∧
    (∀ a, (storedBytes i s).length ≤ a → t.memRead a = s.memRead a) ∧
    (∀ a, (h : a < (storedBytes i s).length) → t.memRead a = (storedBytes i s)[a]) ∧
    (i = .nop ∨ t.err ≠ .none → t.len = s.len) ∧
    (i = .mask ∨ i = .denc ∨ i = .ddec → t.len = s.len)

/-! ## The host's accesses -/

/-- 20_memory.md R62: what each read returns, in every state, and that it has no side effect (the value goes to the host);
the row of `DDATA` is R65, stated by DataPortRead. -/
def Obligations.HostReadReturns : Prop :=
  ∀ (s : State) (off : Nat) (rest : List Event), InAperture off →
    s.events = .access (.read .word off) :: rest →
    (off = 0x00 → step s = .next { s with events := rest, results := (if s.ie then 1 else 0) :: s.results }) ∧
    (off = 0x04 → step s = .next { s with
      events := rest,
      results := BitVec.ofNat 32 ((match s.err with
        | .none => 0
        | .invalidCharacter => 1
        | .invalidLength => 2
        | .illegalCommand => 3
        | .capacity => 4) * 256 + s.av.toNat * 4 + s.done.toNat * 2 + s.busy.toNat) :: s.results }) ∧
    (off = 0x08 → step s = .next { s with events := rest, results := 0 :: s.results }) ∧
    (off = 0x0C → step s = .next { s with events := rest, results := s.len :: s.results }) ∧
    (off = 0x10 → step s = .next { s with events := rest, results := s.dptr :: s.results }) ∧
    (off = 0x14 → step s = .next (State.record (State.readPort { s with events := rest }))) ∧
    (0x18 ≤ off → step s = .next { s with events := rest, results := 0 :: s.results })

/-- 20_memory.md R65: a read of `DDATA`. -/
def Obligations.DataPortRead : Prop :=
  ∀ (s : State) (rest : List Event), s.events = .access (.read .word 0x14) :: rest →
    (s.busy = true → step s = .next { s with events := rest, av := true, results := 0 :: s.results }) ∧
    (s.busy = false → s.cfg.bufBytes ≤ s.dptr.toNat →
      step s = .next { s with events := rest, av := true, dptr := s.dptr + 1, results := 0 :: s.results }) ∧
    (s.busy = false → s.dptr.toNat < s.cfg.bufBytes →
      step s = .next { s with
        events := rest, dptr := s.dptr + 1, results := (s.memRead s.dptr.toNat).setWidth 32 :: s.results })

/-- 20_memory.md R63: what each write does, idle and busy; the rows of `CMD` and `DDATA` are R180 and R66, stated by
IssueOfACommand and DataPortWrite. -/
def Obligations.HostWriteDoes : Prop :=
  ∀ (s : State) (off : Nat) (v : Word) (rest : List Event), InAperture off →
    s.events = .access (.write .word off v) :: rest →
    (off = 0x00 → step s = .next { s with events := rest, ie := v.getLsbD 0 }) ∧
    (off = 0x04 → step s = .next { s with
      events := rest,
      done := if v.getLsbD 1 then false else s.done,
      av := if v.getLsbD 2 then false else s.av }) ∧
    (off = 0x08 → s.busy = false → step s = .next (State.issue v { s with events := rest })) ∧
    (off = 0x0C → s.busy = false → step s = .next { s with events := rest, len := v }) ∧
    (off = 0x10 → s.busy = false → step s = .next { s with events := rest, dptr := v }) ∧
    (off = 0x08 ∨ off = 0x0C ∨ off = 0x10 → s.busy = true → step s = .next { s with events := rest, av := true }) ∧
    (off = 0x14 → step s = .next (State.writePort v { s with events := rest })) ∧
    (0x18 ≤ off → step s = .next { s with events := rest })

/-- 20_memory.md R66: a write of `DDATA`. -/
def Obligations.DataPortWrite : Prop :=
  ∀ (s : State) (v : Word) (rest : List Event), s.events = .access (.write .word 0x14 v) :: rest →
    (s.busy = true → step s = .next { s with events := rest, av := true }) ∧
    (s.busy = false → s.cfg.bufBytes ≤ s.dptr.toNat →
      step s = .next { s with events := rest, av := true, dptr := s.dptr + 1 }) ∧
    (s.busy = false → s.dptr.toNat < s.cfg.bufBytes →
      ∃ t, step s = .next t ∧ t.memRead s.dptr.toNat = BitVec.ofNat 8 (v.toNat % 256) ∧
        (∀ i, i ≠ s.dptr.toNat → t.memRead i = s.memRead i) ∧
        { t with data := s.data } = { s with events := rest, dptr := s.dptr + 1 })

/-- 20_memory.md R67: the pointer wraps, and the wrapping access is out of range. -/
def Obligations.DataPointerWraps : Prop :=
  ∀ (s : State) (a : Access) (rest : List Event), s.cfg.Valid → s.busy = false → s.dptr = 0xFFFFFFFF →
    (a = .read .word 0x14 ∨ ∃ v, a = .write .word 0x14 v) → s.events = .access a :: rest →
    ∃ t, step s = .next t ∧ t.dptr = 0x00000000 ∧ t.av = true ∧ t.data = s.data

/-- 43_pipeline.md R180: a write of `CMD`. -/
def Obligations.IssueOfACommand : Prop :=
  ∀ (s : State) (v : Word) (rest : List Event), s.events = .access (.write .word 0x08 v) :: rest →
    (s.busy = true → step s = .next { s with events := rest, av := true }) ∧
    (s.busy = false → v.toNat < 8 →
      step s = .next { s with
        events := rest, done := false, err := .none, pendOp := BitVec.ofNat 8 (v.toNat % 256), busy := true }) ∧
    (s.busy = false → 8 ≤ v.toNat →
      step s = .next { s with events := rest, done := true, err := .illegalCommand })

/-- 10_state.md R29: reserved offsets and reserved bits read as 0 and ignore writes. -/
def Obligations.ReservedReadsZeroIgnoresWrites : Prop :=
  (∀ (s : State) (off : Nat) (rest : List Event), InAperture off → 0x18 ≤ off →
    (s.events = .access (.read .word off) :: rest →
      step s = .next { s with events := rest, results := 0 :: s.results }) ∧
    (∀ v, s.events = .access (.write .word off v) :: rest → step s = .next { s with events := rest })) ∧
  (∀ (s : State) (k : Nat), 1 ≤ k → s.ctrlWord.getLsbD k = false) ∧
  (∀ (s : State) (k : Nat), (3 ≤ k ∧ k ≤ 7) ∨ 11 ≤ k → s.statusWord.getLsbD k = false) ∧
  (∀ (s : State) (v w : Word), v.getLsbD 0 = w.getLsbD 0 → s.writeCtrl v = s.writeCtrl w) ∧
  (∀ (s : State) (v w : Word), v.getLsbD 1 = w.getLsbD 1 → v.getLsbD 2 = w.getLsbD 2 →
    s.writeStatus v = s.writeStatus w)

/-- 20_memory.md section 3 (R69) and its inference for a model (log entry 7, DEDUCED): an access outside the
interface has no step, and every access of the interface has one. -/
def Obligations.AccessHasStepExactlyInTheInterface : Prop :=
  ∀ (s : State) (a : Access) (rest : List Event), s.events = .access a :: rest →
    ((∃ t, step s = .next t) ↔ (a.width = .word ∧ a.off % 4 = 0 ∧ a.off ≤ 0x3C)) ∧
    (¬ (a.width = .word ∧ a.off % 4 = 0 ∧ a.off ≤ 0x3C) → step s = .refused .accessOutsideInterface)

/-- 20_memory.md section 3 (R70): reads other than `DDATA`'s are free of side effects; writes of `CTRL`, `STATUS`, `LEN` and
`DPTR` are idempotent; writes of `CMD` and `DDATA` are not. -/
def Obligations.IdempotentAccesses : Prop :=
  (∀ (s : State) (off : Nat), off ≠ 0x14 → (s.hostRead off).2 = s) ∧
  (∀ (s : State) (off : Nat) (v : Word), off = 0x00 ∨ off = 0x04 ∨ off = 0x0C ∨ off = 0x10 →
    State.hostWrite off v (State.hostWrite off v s) = State.hostWrite off v s) ∧
  (∃ (s : State) (v : Word), State.hostWrite 0x08 v (State.hostWrite 0x08 v s) ≠ State.hostWrite 0x08 v s) ∧
  (∃ (s : State) (v : Word), State.hostWrite 0x14 v (State.hostWrite 0x14 v s) ≠ State.hostWrite 0x14 v s)

/-- 60_exceptions.md R204: the access violations, that nothing else sets `AV`, what each of them does, that `AV` is sticky,
and that no command reads it. -/
def Obligations.AccessViolations : Prop :=
  (∀ (s t : State) (e : Event) (rest : List Event), s.events = e :: rest → step s = .next t →
    (t.av = true ↔ Violates e s ∨ (s.av = true ∧ ¬ ClearsAv e s))) ∧
  (∀ s t : State, s.events = [] → step s = .next t → t.av = s.av) ∧
  (∀ (s t : State) (e : Event) (rest : List Event), s.events = e :: rest → Violates e s → step s = .next t →
    t = { s with
      events := rest
      av := true
      dptr := if s.busy then s.dptr else s.dptr + 1
      results := match e.resolve s.cfg with
        | .access (.read _ _) => 0 :: s.results
        | _ => s.results }) ∧
  (∀ (i : Instr) (s : State) (b : Bool), ∃ t, exec i s = .next t ∧ exec i { s with av := b } = .next { t with av := b })

/-- 60_exceptions.md section 1 (R206), 70_reset_and_hazards.md section 3 (R240, R241): an access made while a command runs
does not change what the command does. -/
def Obligations.BusyAccessLeavesTheCommandAlone : Prop :=
  ∀ (s : State) (a : Access), s.busy = true → a.WellFormed →
    ∃ t, hostAccess a s = .next t ∧ t.busy = true ∧ t.pendOp = s.pendOp ∧ t.len = s.len ∧ t.dptr = s.dptr ∧
      ∀ i : Instr, ∃ u v, exec i s = .next u ∧ exec i t = .next v ∧
        v.data = u.data ∧ v.len = u.len ∧ v.err = u.err ∧ v.dptr = u.dptr ∧ v.done = u.done ∧ v.busy = u.busy

/-! ## Interrupt -/

/-- 10_state.md R32 and 60_exceptions.md section 2 (R207): `IRQ` is the enable and `DONE`; every completion raises it when
enabled; `AV` does not. -/
def Obligations.InterruptFollowsCompletion : Prop :=
  (∀ s : State, s.irq = true ↔ s.ie = true ∧ s.done = true) ∧
  (∀ (i : Instr) (s : State), ∃ t, exec i s = .next t ∧ t.irq = s.ie) ∧
  (∀ (s : State) (v : Word), s.busy = false → 8 ≤ v.toNat → (s.issue v).irq = s.ie) ∧
  (∀ s : State, (s.setAv).irq = s.irq)

/-- 60_exceptions.md section 2 (R208): exactly the three acknowledges clear `DONE`, and each drops `IRQ`. -/
def Obligations.OnlyAcknowledgesClearDone : Prop :=
  (∀ (s t : State) (e : Event) (rest : List Event), s.events = e :: rest → s.done = true → step s = .next t →
    (t.done = false ↔ ClearsDone e s) ∧ (ClearsDone e s → t.irq = false)) ∧
  (∀ s t : State, s.events = [] → s.done = true → step s = .next t → t.done = true)

/-! ## Reset -/

/-- 10_state.md section 5 (R34) and 70_reset_and_hazards.md section 1 (R230, R231): reset in any state, busy or not. `DATA`
has nothing listed under a new draw (log entry 1, DESIGN CHOICE). -/
def Obligations.ResetLeavesTheResetState : Prop :=
  (∀ (s : State) (rest : List Event), s.events = .reset :: rest →
    ∃ t, step s = .next t ∧ t.ie = false ∧ t.busy = false ∧ t.done = false ∧ t.av = false ∧ t.err = .none ∧
      t.len = 0x00000000 ∧ t.dptr = 0x00000000 ∧ t.irq = false ∧ t.cfg = s.cfg ∧
      (∀ i, t.memRead i = Config.freeByte (s.draws + 1) i)) ∧
  (State.reset.ie = false ∧ State.reset.busy = false ∧ State.reset.done = false ∧ State.reset.av = false ∧
    State.reset.err = .none ∧ State.reset.len = 0x00000000 ∧ State.reset.dptr = 0x00000000 ∧
    State.reset.irq = false ∧ ∀ i, State.reset.memRead i = Config.freeByte 0 i)

/-- 70_reset_and_hazards.md section 2 (R235): a command issued straight after reset sees the empty message and succeeds. -/
def Obligations.CommandAfterResetSucceeds : Prop :=
  ∀ (c : Config) (i : Instr), ∃ t, exec i (State.resetWith c) = .next t ∧ t.err = .none ∧ t.len = 0 ∧ t.done = true ∧
    t.data = (State.resetWith c).data

/-! ## The whole machine -/

/-- Every step keeps the invariant of Safety.lean, from every state that meets it (10_state.md R24, R30; 43_pipeline.md
R187; 00_scope.md R7). -/
def Obligations.EveryStepKeepsTheInvariant : Prop :=
  ∀ s t : State, s.Inv → step s = .next t → t.Inv

/-- The state after reset meets the invariant, for all admitted parameters, the reference profile (log entry 3, DESIGN
CHOICE) among them. -/
def Obligations.ResetMeetsTheInvariant : Prop :=
  (∀ c : Config, c.Valid → (State.resetWith c).Inv) ∧ State.reset.Inv

/-- 10_state.md R24: `ERR` is never 5 to 7, and `BUSY = 1` implies `DONE = 0` and `ERR = 0`, at reset and after every step
from a state where it does. -/
def Obligations.BusyImpliesDoneAndErrClear : Prop :=
  (∀ s : State, (s.statusWord.toNat / 256) % 8 ≤ 4) ∧
  (∀ c : Config, (State.resetWith c).busy = false ∧ (State.resetWith c).done = false ∧
    (State.resetWith c).err = .none) ∧
  (∀ s t : State, (s.busy = true → s.done = false ∧ s.err = .none) → step s = .next t →
    (t.busy = true → t.done = false ∧ t.err = .none))

/-- 10_state.md section 4 (R33): no step changes the parameters, `BXM_BASE` and `BXM_IRQ_ROUTE` among them. -/
def Obligations.NoStepChangesTheParameters : Prop :=
  ∀ s t : State, step s = .next t → t.cfg = s.cfg

/-- 60_exceptions.md section 1 (R200): from a state that meets the invariant no step faults, and every step whose event is
part of the interface answers a next state. -/
def Obligations.BlockNeverStops : Prop :=
  ∀ s : State, s.Inv →
    (∀ f, step s ≠ .fault f) ∧
    ((∀ e rest, s.events = e :: rest → e.Admitted s.cfg) → ∃ t, step s = .next t)

/-- 10_state.md section 2 (R30): `DATA` changes only by a `DDATA` write, by the engine completing a command, or by reset. -/
def Obligations.DataChangesOnlyByPortEngineReset : Prop :=
  ∀ s t : State, step s = .next t → t.data ≠ s.data →
    (∃ e v rest, s.events = e :: rest ∧ e.resolve s.cfg = .access (.write .word 0x14 v) ∧ s.busy = false ∧
      s.dptr.toNat < s.cfg.bufBytes) ∨
    (s.busy = true ∧ (s.events = [] ∨ ∃ rest, s.events = .engine :: rest)) ∨
    (∃ rest, s.events = .reset :: rest)

/-- 70_reset_and_hazards.md section 4 (R246), weak fairness as the model gives it (log entry 4, DESIGN CHOICE): a pending
command is no longer pending after at most one step more than there are events. -/
def Obligations.PendingCommandCompletes : Prop :=
  ∀ s : State, s.Inv → s.busy = true → (∀ e ∈ s.events, e.Admitted s.cfg) →
    ∃ k t, k ≤ s.events.length + 1 ∧ Host.Core.run core k s = .next t ∧ t.busy = false

/-- 30_encoding.md section 4 (R98), 20_memory.md section 6 (R78): LOAD of any message that fits, from any idle state. -/
def Obligations.LoadPlacesTheMessage : Prop :=
  ∀ (s : State) (msg : List Byte) (rest : List Event), s.cfg.bufBytes ≤ 2 ^ 31 → s.busy = false →
    msg.length ≤ s.cfg.bufBytes → s.events = loadOf msg ++ rest →
    ∃ t, Host.Core.run core (msg.length + 2) s = .next t ∧ t.message = msg ∧ t.len.toNat = msg.length ∧
      t.dptr.toNat = msg.length ∧ t.av = s.av ∧ t.events = rest ∧
      (∀ i, msg.length ≤ i → t.memRead i = s.memRead i)

/-- 30_encoding.md section 4 (R98), 20_memory.md section 6 (R78): UNLOAD returns the message, from any idle state. The latest
value read stands first in `results` (log entry 6, DESIGN CHOICE). -/
def Obligations.UnloadReturnsTheMessage : Prop :=
  ∀ (s : State) (rest : List Event), s.cfg.bufBytes ≤ 2 ^ 31 → s.busy = false → s.len.toNat ≤ s.cfg.bufBytes →
    s.events = unloadOf s.len.toNat ++ rest →
    ∃ t, Host.Core.run core (s.len.toNat + 2) s = .next t ∧
      t.results = (s.message.map (·.setWidth 32)).reverse ++ s.len :: s.results ∧
      t.len = s.len ∧ t.dptr = s.len ∧ t.data = s.data ∧ t.av = s.av ∧ t.events = rest

/-! ## The address map -/

/-- 20_memory.md section 5 (R77): the block answers on the host's bus in the 64 bytes from `BXM_BASE` on, as at the
offsets, and nowhere else; `DATA` has no address: no bus access but a write of `DDATA` changes it. -/
def Obligations.BusAddressSelectsTheOffset : Prop :=
  (∀ (s : State) (w : Width) (off : Nat) (rest : List Event), off < 0x40 →
    (s.events = .bus (.read w (s.cfg.base + off)) :: rest →
      step s = step { s with events := .access (.read w off) :: rest }) ∧
    (∀ v, s.events = .bus (.write w (s.cfg.base + off) v) :: rest →
      step s = step { s with events := .access (.write w off v) :: rest })) ∧
  (∀ (s : State) (a : Access) (rest : List Event), s.events = .bus a :: rest →
    a.off < s.cfg.base ∨ s.cfg.base + 0x40 ≤ a.off → step s = .refused .accessOutsideInterface) ∧
  (∀ (s t : State) (a : Access) (rest : List Event), s.events = .bus a :: rest → step s = .next t → t.data ≠ s.data →
    ∃ v, a = .write .word (s.cfg.base + 0x14) v)
end

