-- ==== Sys2Proof/Laws/Codec.lean ====
section
/-! SUPPORT. Laws/Codec.lean: the lengths of the transforms' outputs. -/

namespace Sys2Proof.Machine

@[simp] theorem maskFrom_length (m : Word) (a b i : Nat) (s : List Byte) : (maskFrom m a b i s).length = s.length := by
  induction s generalizing i with
  | nil => rfl
  | cons x s ih => simp [maskFrom, ih]

@[simp] theorem maskApply_length (m : Word) (s : List Byte) : (maskApply m s).length = s.length := by
  unfold maskApply; split <;> simp

@[simp] theorem xorAll_length (k : Byte) (t : List Byte) : (xorAll k t).length = t.length := by simp [xorAll]

@[simp] theorem diffEnc_length (s : List Byte) : (diffEnc s).length = s.length := by
  induction s with
  | nil => rfl
  | cons h t ih => simp [diffEnc, ih]

@[simp] theorem diffDecFrom_length (a : Byte) (s : List Byte) : (diffDecFrom a s).length = s.length := by
  induction s generalizing a with
  | nil => rfl
  | cons h t ih => simp [diffDecFrom, ih]

@[simp] theorem diffDec_length (s : List Byte) : (diffDec s).length = s.length := diffDecFrom_length 0 s

@[simp] theorem b64Enc_length (c : Config) (s : List Byte) : (b64Enc c s).length = encodedLength s.length := by
  induction s using b64Enc.induct with
  | case1 => simp [b64Enc, encodedLength]
  | case2 => simp [b64Enc, encodedLength]
  | case3 => simp [b64Enc, encodedLength]
  | case4 b0 b1 b2 rest ih => simp [b64Enc, ih, encodedLength]; omega

theorem decodeChunk_length {c : Config} {p : Nat} {c0 c1 c2 c3 : Byte} {r : List Byte}
    (h : decodeChunk c p c0 c1 c2 c3 = some r) : r.length = 3 - p := by
  unfold decodeChunk at h
  split at h
  · cases h; simp [chunkBytes]
  · cases h

/-- A decoded message is no longer than three quarters of its characters. -/
theorem decodeChunks_length {c : Config} : ∀ {t r : List Byte}, decodeChunks c t = .ok r → 4 * r.length ≤ 3 * t.length
  | [], r, h => by
    rw [decodeChunks] at h
    cases h
    simp
  | c0 :: c1 :: c2 :: c3 :: rest, r, h => by
    rw [decodeChunks] at h
    split at h
    · cases h
    · rename_i bytes hb
      split at h
      · rename_i more hm
        cases h
        have := decodeChunks_length hm
        have := decodeChunk_length hb
        simp; omega
      · cases h
  | [_], r, h => by simp [decodeChunks] at h
  | [_, _], r, h => by simp [decodeChunks] at h
  | [_, _, _], r, h => by simp [decodeChunks] at h

theorem b64Dec_length {c : Config} {t r : List Byte} (h : b64Dec c t = .ok r) : r.length ≤ t.length := by
  unfold b64Dec at h
  split at h
  · cases h
  · have := decodeChunks_length h; omega

end Sys2Proof.Machine
end

