-- ==== Sys2Proof/Laws/State.lean ====
section
/-! SUPPORT. Laws/State.lean: what each update of the state does to each field, one lemma per field and update, so that
no later proof unfolds a record update. -/

namespace Sys2Proof.Machine

variable (s : State)

@[simp] theorem State.setAv_ie : (s.setAv).ie = s.ie := rfl
@[simp] theorem State.setAv_busy : (s.setAv).busy = s.busy := rfl
@[simp] theorem State.setAv_done : (s.setAv).done = s.done := rfl
@[simp] theorem State.setAv_av : (s.setAv).av = true := rfl
@[simp] theorem State.setAv_err : (s.setAv).err = s.err := rfl
@[simp] theorem State.setAv_len : (s.setAv).len = s.len := rfl
@[simp] theorem State.setAv_dptr : (s.setAv).dptr = s.dptr := rfl
@[simp] theorem State.setAv_pendOp : (s.setAv).pendOp = s.pendOp := rfl
@[simp] theorem State.setAv_data : (s.setAv).data = s.data := rfl
@[simp] theorem State.setAv_cfg : (s.setAv).cfg = s.cfg := rfl
@[simp] theorem State.setAv_draws : (s.setAv).draws = s.draws := rfl
@[simp] theorem State.setAv_events : (s.setAv).events = s.events := rfl
@[simp] theorem State.setAv_results : (s.setAv).results = s.results := rfl

@[simp] theorem State.writeCtrl_ie (v : Word) : (s.writeCtrl v).ie = v.getLsbD 0 := rfl
@[simp] theorem State.writeCtrl_busy (v : Word) : (s.writeCtrl v).busy = s.busy := rfl
@[simp] theorem State.writeCtrl_done (v : Word) : (s.writeCtrl v).done = s.done := rfl
@[simp] theorem State.writeCtrl_av (v : Word) : (s.writeCtrl v).av = s.av := rfl
@[simp] theorem State.writeCtrl_err (v : Word) : (s.writeCtrl v).err = s.err := rfl
@[simp] theorem State.writeCtrl_len (v : Word) : (s.writeCtrl v).len = s.len := rfl
@[simp] theorem State.writeCtrl_dptr (v : Word) : (s.writeCtrl v).dptr = s.dptr := rfl
@[simp] theorem State.writeCtrl_pendOp (v : Word) : (s.writeCtrl v).pendOp = s.pendOp := rfl
@[simp] theorem State.writeCtrl_data (v : Word) : (s.writeCtrl v).data = s.data := rfl
@[simp] theorem State.writeCtrl_cfg (v : Word) : (s.writeCtrl v).cfg = s.cfg := rfl
@[simp] theorem State.writeCtrl_draws (v : Word) : (s.writeCtrl v).draws = s.draws := rfl
@[simp] theorem State.writeCtrl_events (v : Word) : (s.writeCtrl v).events = s.events := rfl
@[simp] theorem State.writeCtrl_results (v : Word) : (s.writeCtrl v).results = s.results := rfl

@[simp] theorem State.writeStatus_ie (v : Word) : (s.writeStatus v).ie = s.ie := rfl
@[simp] theorem State.writeStatus_busy (v : Word) : (s.writeStatus v).busy = s.busy := rfl
@[simp] theorem State.writeStatus_done (v : Word) : (s.writeStatus v).done = (s.done && !v.getLsbD 1) := rfl
@[simp] theorem State.writeStatus_av (v : Word) : (s.writeStatus v).av = (s.av && !v.getLsbD 2) := rfl
@[simp] theorem State.writeStatus_err (v : Word) : (s.writeStatus v).err = s.err := rfl
@[simp] theorem State.writeStatus_len (v : Word) : (s.writeStatus v).len = s.len := rfl
@[simp] theorem State.writeStatus_dptr (v : Word) : (s.writeStatus v).dptr = s.dptr := rfl
@[simp] theorem State.writeStatus_pendOp (v : Word) : (s.writeStatus v).pendOp = s.pendOp := rfl
@[simp] theorem State.writeStatus_data (v : Word) : (s.writeStatus v).data = s.data := rfl
@[simp] theorem State.writeStatus_cfg (v : Word) : (s.writeStatus v).cfg = s.cfg := rfl
@[simp] theorem State.writeStatus_draws (v : Word) : (s.writeStatus v).draws = s.draws := rfl
@[simp] theorem State.writeStatus_events (v : Word) : (s.writeStatus v).events = s.events := rfl
@[simp] theorem State.writeStatus_results (v : Word) : (s.writeStatus v).results = s.results := rfl

@[simp] theorem State.endCommand_ie (e : ErrCode) : (s.endCommand e).ie = s.ie := rfl
@[simp] theorem State.endCommand_busy (e : ErrCode) : (s.endCommand e).busy = false := rfl
@[simp] theorem State.endCommand_done (e : ErrCode) : (s.endCommand e).done = true := rfl
@[simp] theorem State.endCommand_av (e : ErrCode) : (s.endCommand e).av = s.av := rfl
@[simp] theorem State.endCommand_err (e : ErrCode) : (s.endCommand e).err = e := rfl
@[simp] theorem State.endCommand_len (e : ErrCode) : (s.endCommand e).len = s.len := rfl
@[simp] theorem State.endCommand_dptr (e : ErrCode) : (s.endCommand e).dptr = s.dptr := rfl
@[simp] theorem State.endCommand_pendOp (e : ErrCode) : (s.endCommand e).pendOp = s.pendOp := rfl
@[simp] theorem State.endCommand_data (e : ErrCode) : (s.endCommand e).data = s.data := rfl
@[simp] theorem State.endCommand_cfg (e : ErrCode) : (s.endCommand e).cfg = s.cfg := rfl
@[simp] theorem State.endCommand_draws (e : ErrCode) : (s.endCommand e).draws = s.draws := rfl
@[simp] theorem State.endCommand_events (e : ErrCode) : (s.endCommand e).events = s.events := rfl
@[simp] theorem State.endCommand_results (e : ErrCode) : (s.endCommand e).results = s.results := rfl

@[simp] theorem State.acceptCommand_ie (op : Byte) : (s.acceptCommand op).ie = s.ie := rfl
@[simp] theorem State.acceptCommand_busy (op : Byte) : (s.acceptCommand op).busy = true := rfl
@[simp] theorem State.acceptCommand_done (op : Byte) : (s.acceptCommand op).done = false := rfl
@[simp] theorem State.acceptCommand_av (op : Byte) : (s.acceptCommand op).av = s.av := rfl
@[simp] theorem State.acceptCommand_err (op : Byte) : (s.acceptCommand op).err = .none := rfl
@[simp] theorem State.acceptCommand_len (op : Byte) : (s.acceptCommand op).len = s.len := rfl
@[simp] theorem State.acceptCommand_dptr (op : Byte) : (s.acceptCommand op).dptr = s.dptr := rfl
@[simp] theorem State.acceptCommand_pendOp (op : Byte) : (s.acceptCommand op).pendOp = op := rfl
@[simp] theorem State.acceptCommand_data (op : Byte) : (s.acceptCommand op).data = s.data := rfl
@[simp] theorem State.acceptCommand_cfg (op : Byte) : (s.acceptCommand op).cfg = s.cfg := rfl
@[simp] theorem State.acceptCommand_draws (op : Byte) : (s.acceptCommand op).draws = s.draws := rfl
@[simp] theorem State.acceptCommand_events (op : Byte) : (s.acceptCommand op).events = s.events := rfl
@[simp] theorem State.acceptCommand_results (op : Byte) : (s.acceptCommand op).results = s.results := rfl

@[simp] theorem State.memWrite_ie (i : Nat) (v : Byte) : (s.memWrite i v).ie = s.ie := rfl
@[simp] theorem State.memWrite_busy (i : Nat) (v : Byte) : (s.memWrite i v).busy = s.busy := rfl
@[simp] theorem State.memWrite_done (i : Nat) (v : Byte) : (s.memWrite i v).done = s.done := rfl
@[simp] theorem State.memWrite_av (i : Nat) (v : Byte) : (s.memWrite i v).av = s.av := rfl
@[simp] theorem State.memWrite_err (i : Nat) (v : Byte) : (s.memWrite i v).err = s.err := rfl
@[simp] theorem State.memWrite_len (i : Nat) (v : Byte) : (s.memWrite i v).len = s.len := rfl
@[simp] theorem State.memWrite_dptr (i : Nat) (v : Byte) : (s.memWrite i v).dptr = s.dptr := rfl
@[simp] theorem State.memWrite_pendOp (i : Nat) (v : Byte) : (s.memWrite i v).pendOp = s.pendOp := rfl
@[simp] theorem State.memWrite_data (i : Nat) (v : Byte) : (s.memWrite i v).data = Memory.put i v s.data := rfl
@[simp] theorem State.memWrite_cfg (i : Nat) (v : Byte) : (s.memWrite i v).cfg = s.cfg := rfl
@[simp] theorem State.memWrite_draws (i : Nat) (v : Byte) : (s.memWrite i v).draws = s.draws := rfl
@[simp] theorem State.memWrite_events (i : Nat) (v : Byte) : (s.memWrite i v).events = s.events := rfl
@[simp] theorem State.memWrite_results (i : Nat) (v : Byte) : (s.memWrite i v).results = s.results := rfl

@[simp] theorem State.complete_ie (out : List Byte) : (s.complete out).ie = s.ie := rfl
@[simp] theorem State.complete_busy (out : List Byte) : (s.complete out).busy = false := rfl
@[simp] theorem State.complete_done (out : List Byte) : (s.complete out).done = true := rfl
@[simp] theorem State.complete_av (out : List Byte) : (s.complete out).av = s.av := rfl
@[simp] theorem State.complete_err (out : List Byte) : (s.complete out).err = .none := rfl
@[simp] theorem State.complete_len (out : List Byte) : (s.complete out).len = BitVec.ofNat 32 out.length := rfl
@[simp] theorem State.complete_dptr (out : List Byte) : (s.complete out).dptr = s.dptr := rfl
@[simp] theorem State.complete_pendOp (out : List Byte) : (s.complete out).pendOp = s.pendOp := rfl
@[simp] theorem State.complete_data (out : List Byte) : (s.complete out).data = Memory.putAll 0 out s.data := rfl
@[simp] theorem State.complete_cfg (out : List Byte) : (s.complete out).cfg = s.cfg := rfl
@[simp] theorem State.complete_draws (out : List Byte) : (s.complete out).draws = s.draws := rfl
@[simp] theorem State.complete_events (out : List Byte) : (s.complete out).events = s.events := rfl
@[simp] theorem State.complete_results (out : List Byte) : (s.complete out).results = s.results := rfl

@[simp] theorem State.raiseError_ie (e : ErrCode) : (s.raiseError e).ie = s.ie := rfl
@[simp] theorem State.raiseError_busy (e : ErrCode) : (s.raiseError e).busy = false := rfl
@[simp] theorem State.raiseError_done (e : ErrCode) : (s.raiseError e).done = true := rfl
@[simp] theorem State.raiseError_av (e : ErrCode) : (s.raiseError e).av = s.av := rfl
@[simp] theorem State.raiseError_err (e : ErrCode) : (s.raiseError e).err = e := rfl
@[simp] theorem State.raiseError_len (e : ErrCode) : (s.raiseError e).len = s.len := rfl
@[simp] theorem State.raiseError_dptr (e : ErrCode) : (s.raiseError e).dptr = s.dptr := rfl
@[simp] theorem State.raiseError_pendOp (e : ErrCode) : (s.raiseError e).pendOp = s.pendOp := rfl
@[simp] theorem State.raiseError_data (e : ErrCode) : (s.raiseError e).data = s.data := rfl
@[simp] theorem State.raiseError_cfg (e : ErrCode) : (s.raiseError e).cfg = s.cfg := rfl
@[simp] theorem State.raiseError_draws (e : ErrCode) : (s.raiseError e).draws = s.draws := rfl
@[simp] theorem State.raiseError_events (e : ErrCode) : (s.raiseError e).events = s.events := rfl
@[simp] theorem State.raiseError_results (e : ErrCode) : (s.raiseError e).results = s.results := rfl

@[simp] theorem State.advanceDptr_ie : (s.advanceDptr).ie = s.ie := rfl
@[simp] theorem State.advanceDptr_busy : (s.advanceDptr).busy = s.busy := rfl
@[simp] theorem State.advanceDptr_done : (s.advanceDptr).done = s.done := rfl
@[simp] theorem State.advanceDptr_av : (s.advanceDptr).av = s.av := rfl
@[simp] theorem State.advanceDptr_err : (s.advanceDptr).err = s.err := rfl
@[simp] theorem State.advanceDptr_len : (s.advanceDptr).len = s.len := rfl
@[simp] theorem State.advanceDptr_dptr : (s.advanceDptr).dptr = s.dptr + 1 := rfl
@[simp] theorem State.advanceDptr_pendOp : (s.advanceDptr).pendOp = s.pendOp := rfl
@[simp] theorem State.advanceDptr_data : (s.advanceDptr).data = s.data := rfl
@[simp] theorem State.advanceDptr_cfg : (s.advanceDptr).cfg = s.cfg := rfl
@[simp] theorem State.advanceDptr_draws : (s.advanceDptr).draws = s.draws := rfl
@[simp] theorem State.advanceDptr_events : (s.advanceDptr).events = s.events := rfl
@[simp] theorem State.advanceDptr_results : (s.advanceDptr).results = s.results := rfl

@[simp] theorem State.hardReset_ie : (s.hardReset).ie = false := rfl
@[simp] theorem State.hardReset_busy : (s.hardReset).busy = false := rfl
@[simp] theorem State.hardReset_done : (s.hardReset).done = false := rfl
@[simp] theorem State.hardReset_av : (s.hardReset).av = false := rfl
@[simp] theorem State.hardReset_err : (s.hardReset).err = .none := rfl
@[simp] theorem State.hardReset_len : (s.hardReset).len = 0 := rfl
@[simp] theorem State.hardReset_dptr : (s.hardReset).dptr = 0 := rfl
@[simp] theorem State.hardReset_pendOp : (s.hardReset).pendOp = 0 := rfl
@[simp] theorem State.hardReset_data : (s.hardReset).data = [] := rfl
@[simp] theorem State.hardReset_cfg : (s.hardReset).cfg = s.cfg := rfl
@[simp] theorem State.hardReset_draws : (s.hardReset).draws = s.draws + 1 := rfl
@[simp] theorem State.hardReset_events : (s.hardReset).events = s.events := rfl
@[simp] theorem State.hardReset_results : (s.hardReset).results = s.results := rfl

end Sys2Proof.Machine
end

