-- ==== Sys2Proof/Laws/Memory.lean ====
section
/-! SUPPORT. Laws/Memory.lean: the laws of DATA: a read after a write, that every memory operation keeps the one form,
and that it lists no index it was not given. -/

namespace Sys2Proof.Machine

theorem Memory.get_put_same (a : Nat) (v : Byte) (m : Memory) : Memory.get? (Memory.put a v m) a = some v := by
  induction m with
  | nil => simp [Memory.put, Memory.get?]
  | cons x m ih =>
    obtain ⟨k, w⟩ := x
    simp only [Memory.put]
    split_ifs with h1 h2
    · simp [Memory.get?]
    · simp [Memory.get?]
    · simp [Memory.get?, h2, ih]

theorem Memory.get_put_other {a b : Nat} (h : b ≠ a) (v : Byte) (m : Memory) :
    Memory.get? (Memory.put a v m) b = Memory.get? m b := by
  induction m with
  | nil => simp [Memory.put, Memory.get?, h]
  | cons x m ih =>
    obtain ⟨k, w⟩ := x
    simp only [Memory.put]
    split_ifs with h1 h2
    · simp [Memory.get?, h]
    · subst h2; simp [Memory.get?, h]
    · simp [Memory.get?, ih]

theorem Memory.mem_put {a : Nat} {v : Byte} {m : Memory} {x : Host.Cell} (h : x ∈ Memory.put a v m) :
    x.1 = a ∨ x ∈ m := by
  induction m with
  | nil => simp [Memory.put] at h; simp [h]
  | cons y m ih =>
    obtain ⟨k, w⟩ := y
    simp only [Memory.put] at h
    split_ifs at h with h1 h2
    · rcases List.mem_cons.1 h with rfl | h
      · exact .inl rfl
      · exact .inr h
    · rcases List.mem_cons.1 h with rfl | h
      · exact .inl rfl
      · exact .inr (List.mem_cons_of_mem _ h)
    · rcases List.mem_cons.1 h with rfl | h
      · exact .inr List.mem_cons_self
      · exact (ih h).imp id (List.mem_cons_of_mem _)

theorem Memory.put_wf (a : Nat) (v : Byte) {m : Memory} (h : Memory.wf m) : Memory.wf (Memory.put a v m) := by
  induction m with
  | nil => simp [Memory.put, Memory.wf]
  | cons x m ih =>
    obtain ⟨k, w⟩ := x
    have hx : ∀ y ∈ m, k < y.1 := (List.pairwise_cons.1 h).1
    have hm : Memory.wf m := (List.pairwise_cons.1 h).2
    simp only [Memory.put]
    split_ifs with h1 h2
    · refine List.pairwise_cons.2 ⟨fun y hy => ?_, h⟩
      rcases List.mem_cons.1 hy with rfl | hy
      · exact h1
      · exact h1.trans (hx y hy)
    · subst h2; exact List.pairwise_cons.2 ⟨hx, hm⟩
    · refine List.pairwise_cons.2 ⟨fun y hy => ?_, ih hm⟩
      rcases Memory.mem_put hy with hy | hy
      · show k < y.1
        omega
      · exact hx y hy

/-- A byte inside a sequence written from `i` up is that byte of the sequence; any other index reads as before. -/
theorem Memory.get_putAll (bs : List Byte) (i a : Nat) (m : Memory) :
    Memory.get? (Memory.putAll i bs m) a =
      if i ≤ a ∧ a < i + bs.length then bs[a - i]? else Memory.get? m a := by
  induction bs generalizing i m with
  | nil => simp [Memory.putAll]
  | cons b bs ih =>
    rw [Memory.putAll, ih]
    by_cases ha : a = i
    · subst ha; simp [Memory.get_put_same]
    · rw [Memory.get_put_other ha]
      by_cases h : i + 1 ≤ a ∧ a < i + 1 + bs.length
      · rw [if_pos h, if_pos (by simp; omega), show a - i = (a - (i + 1)) + 1 by omega, List.getElem?_cons_succ]
      · rw [if_neg h, if_neg (by simp; omega)]

theorem Memory.putAll_wf (bs : List Byte) (i : Nat) {m : Memory} (h : Memory.wf m) :
    Memory.wf (Memory.putAll i bs m) := by
  induction bs generalizing i m with
  | nil => exact h
  | cons b bs ih => exact ih _ (Memory.put_wf i b h)

theorem Memory.mem_putAll {bs : List Byte} {i : Nat} {m : Memory} {x : Host.Cell}
    (h : x ∈ Memory.putAll i bs m) : x.1 < i + bs.length ∨ x ∈ m := by
  induction bs generalizing i m with
  | nil => exact .inr h
  | cons b bs ih =>
    rcases ih h with h | h
    · left; simp; omega
    · rcases Memory.mem_put h with h | h
      · left; simp; omega
      · exact .inr h

theorem State.memRead_congr {s t : State} (hd : s.data = t.data) (hr : s.draws = t.draws) : s.memRead = t.memRead := by
  funext i; simp [State.memRead, hd, hr]

theorem State.memRead_memWrite_same (s : State) (i : Nat) (v : Byte) : (s.memWrite i v).memRead i = v := by
  simp [State.memRead, Memory.get_put_same]

theorem State.memRead_memWrite_other (s : State) {i j : Nat} (h : j ≠ i) (v : Byte) :
    (s.memWrite i v).memRead j = s.memRead j := by
  simp [State.memRead, Memory.get_put_other h]

/-- Reading after `complete(out)`: the output below its length, the old byte at and above it (43_pipeline.md R181). -/
theorem State.memRead_complete (s : State) (out : List Byte) (i : Nat) :
    (s.complete out).memRead i = if h : i < out.length then out[i] else s.memRead i := by
  unfold State.memRead
  rw [State.complete_data, State.complete_draws, Memory.get_putAll]
  by_cases h : i < out.length
  · simp [h]
  · simp [h]

end Sys2Proof.Machine
end

