-- ==== Sys2Proof/Laws/Ops.lean ====
section
/-! SUPPORT. Laws/Ops.lean: what each shared operation can do, said once: the message, the end of a command, and what
every command leaves alone. -/

namespace Sys2Proof.Machine

@[simp] theorem State.message_length (s : State) : s.message.length = s.len.toNat := by simp [State.message]

theorem State.message_get (s : State) {i : Nat} (h : i < s.len.toNat) : s.message[i]? = some (s.memRead i) := by
  simp [State.message, h]

/-- A sequence is the message of a state exactly when it has length `LEN` and agrees with `DATA`. -/
theorem State.message_eq (s : State) (msg : List Byte) (hl : msg.length = s.len.toNat)
    (h : ∀ i, (hi : i < msg.length) → s.memRead i = msg[i]) : s.message = msg := by
  apply List.ext_getElem
  · simp [hl]
  · intro i h1 h2; simp [State.message, h i h2]

/-- After `complete(out)` with an output that a 32-bit `LEN` can count, the message is the output. -/
theorem State.message_complete (s : State) (out : List Byte) (h : out.length < 2 ^ 32) :
    (s.complete out).message = out := by
  apply State.message_eq
  · simp only [State.complete_len, BitVec.toNat_ofNat, Nat.mod_eq_of_lt h]
  · intro i hi; simp [State.memRead_complete, hi]

theorem State.finish_ok (s : State) (out : List Byte) : s.finish (.ok out) = s.complete out := rfl

theorem State.finish_error (s : State) (e : ErrCode) : s.finish (.error e) = s.raiseError e := rfl

theorem State.onMessage_capacity {s : State} {f : List Byte → Except ErrCode (List Byte)}
    (h : s.cfg.bufBytes < s.len.toNat) : s.onMessage f = .error .capacity := by
  simp [State.onMessage, h]

theorem State.onMessage_fits {s : State} {f : List Byte → Except ErrCode (List Byte)}
    (h : s.len.toNat ≤ s.cfg.bufBytes) : s.onMessage f = f s.message := by
  simp [State.onMessage, Nat.not_lt.2 h]

/-- What every command but NOP computes before the state is touched; NOP computes nothing (43_pipeline.md R187). -/
def commandResult : Instr → State → Except ErrCode (List Byte)
  | .nop, _ => .ok []
  | .mask, s => maskResult s
  | .denc, s => dencResult s
  | .ddec, s => ddecResult s
  | .b64e, s => b64eResult s
  | .b64d, s => b64dResult s
  | .penc, s => pencResult s
  | .pdec, s => pdecResult s

/-- Everything a command can do: NOP only ends, and every other command ends as its result says. -/
theorem exec_eq (i : Instr) (s : State) :
    exec i s = .next (if i = .nop then s.endCommand .none else s.finish (commandResult i s)) := by
  cases i <;> rfl

/-- Every command answers a next state. -/
theorem exec_next (i : Instr) (s : State) : ∃ t, exec i s = .next t := ⟨_, exec_eq i s⟩

/-- The end of a command clears `BUSY`, sets `DONE` and leaves what no command touches. -/
theorem State.finish_frame (r : Except ErrCode (List Byte)) (s : State) :
    (s.finish r).busy = false ∧ (s.finish r).done = true ∧ (s.finish r).ie = s.ie ∧ (s.finish r).av = s.av ∧
      (s.finish r).dptr = s.dptr ∧ (s.finish r).pendOp = s.pendOp ∧ (s.finish r).cfg = s.cfg ∧
      (s.finish r).draws = s.draws ∧ (s.finish r).events = s.events ∧ (s.finish r).results = s.results := by
  cases r <;> simp [State.finish]

/-- An issue does one of three things (43_pipeline.md R180). -/
theorem State.issue_cases (v : Word) (s : State) :
    (s.busy = true ∧ s.issue v = s.setAv) ∨
      (s.busy = false ∧ ∃ i, decode v = .ok i ∧ s.issue v = s.acceptCommand (opcField v)) ∨
      (s.busy = false ∧ ∃ e, decode v = .error e ∧ s.issue v = s.raiseError .illegalCommand) := by
  unfold State.issue
  cases hb : s.busy
  · cases hd : decode v <;> simp
  · simp

end Sys2Proof.Machine
end

