-- ==== Sys2Proof/Laws/Step.lean ====
section
/-! SUPPORT. Laws/Step.lean: what one step can do, said once. -/

namespace Sys2Proof.Machine

theorem step_nil {s : State} (h : s.events = []) : step s = engineTurn s := by simp [step, stepNext, h]

theorem step_cons {s : State} {e : Event} {rest : List Event} (h : s.events = e :: rest) :
    step s = runEvent e { s with events := rest } := by simp [step, stepNext, h]

theorem engineTurn_idle {s : State} (h : s.busy = false) : engineTurn s = .next s := by simp [engineTurn, h]

theorem engineTurn_busy {s : State} {i : Instr} (h : s.busy = true) (hd : decode s.fetch = .ok i) :
    engineTurn s = exec i s := by simp [engineTurn, h, hd]

/-- Everything the engine's turn can do. -/
theorem engineTurn_cases {s : State} {o : Host.Outcome State Fault Refusal} (h : engineTurn s = o) :
    (s.busy = false ∧ o = .next s) ∨
      (s.busy = true ∧ ∃ i, decode s.fetch = .ok i ∧ o = exec i s) ∨
      (s.busy = true ∧ (∃ e, decode s.fetch = .error e) ∧ o = .fault .pendOpUnassigned) := by
  subst h
  unfold engineTurn
  cases hb : s.busy
  · simp
  · cases hd : decode s.fetch <;> simp

theorem hostAccess_read {w : Width} {off : Nat} {s : State} (h : (Access.read w off).WellFormed) :
    hostAccess (.read w off) s = .next (State.record (s.hostRead off)) := by simp only [hostAccess, if_pos h]

theorem hostAccess_write {w : Width} {off : Nat} {v : Word} {s : State} (h : (Access.write w off v).WellFormed) :
    hostAccess (.write w off v) s = .next (s.hostWrite off v) := by simp only [hostAccess, if_pos h]

theorem hostAccess_outside {a : Access} {s : State} (h : ¬ a.WellFormed) :
    hostAccess a s = .refused .accessOutsideInterface := by simp only [hostAccess, if_neg h]

theorem busOffset_base {c : Config} {off : Nat} (h : off < 0x40) : busOffset c (c.base + off) = some off := by
  simp [busOffset, h]

theorem busOffset_outside {c : Config} {addr : Nat} (h : addr < c.base ∨ c.base + 0x40 ≤ addr) :
    busOffset c addr = none := by
  simp only [busOffset]
  rw [if_neg (by omega)]

/-- A bus address that selects an offset of the aperture is `BXM_BASE` plus that offset. -/
theorem busOffset_some {c : Config} {addr off : Nat} (h : busOffset c addr = some off) :
    addr = c.base + off ∧ off < 0x40 := by
  unfold busOffset at h
  split at h
  · cases h; omega
  · cases h

theorem runEvent_access {e : Event} {a : Access} {s : State} (h : e.resolve s.cfg = .access a) :
    runEvent e s = hostAccess a s := by simp only [runEvent, h]

theorem runEvent_bus {e : Event} {a : Access} {s : State} (h : e.resolve s.cfg = .bus a) :
    runEvent e s = .refused .accessOutsideInterface := by simp only [runEvent, h]

theorem resolve_engine {c : Config} {e : Event} (h : e.resolve c = .engine) : e = .engine := by
  cases e with
  | bus a => rw [Event.resolve] at h; split at h <;> cases h
  | _ => exact h

theorem resolve_reset {c : Config} {e : Event} (h : e.resolve c = .reset) : e = .reset := by
  cases e with
  | bus a => rw [Event.resolve] at h; split at h <;> cases h
  | _ => exact h

/-- Everything a step that answers a next state can have been. -/
theorem step_cases {s t : State} (h : step s = .next t) :
    (s.events = [] ∧ engineTurn s = .next t) ∨
      (∃ rest, s.events = .engine :: rest ∧ engineTurn { s with events := rest } = .next t) ∨
      (∃ rest, s.events = .reset :: rest ∧ t = State.hardReset { s with events := rest }) ∨
      (∃ e w off rest, s.events = e :: rest ∧ e.resolve s.cfg = .access (.read w off) ∧
        (Access.read w off).WellFormed ∧ t = State.record (State.hostRead off { s with events := rest })) ∨
      (∃ e w off v rest, s.events = e :: rest ∧ e.resolve s.cfg = .access (.write w off v) ∧
        (Access.write w off v).WellFormed ∧ t = State.hostWrite off v { s with events := rest }) := by
  cases he : s.events with
  | nil => exact .inl ⟨rfl, by rw [← step_nil he, h]⟩
  | cons e rest =>
    rw [step_cons he] at h
    cases hr : e.resolve s.cfg with
    | engine =>
      obtain rfl := resolve_engine hr
      exact .inr (.inl ⟨rest, rfl, h⟩)
    | reset =>
      obtain rfl := resolve_reset hr
      have h' : Host.Outcome.next (State.hardReset { s with events := rest }) = Host.Outcome.next t := h
      injection h' with h'
      exact .inr (.inr (.inl ⟨rest, rfl, h'.symm⟩))
    | bus a => rw [runEvent_bus (s := { s with events := rest }) hr] at h; cases h
    | access a =>
      have h' : hostAccess a { s with events := rest } = .next t := by
        rw [← h, runEvent_access (s := { s with events := rest }) hr]
      by_cases hw : a.WellFormed
      · cases a with
        | read w off =>
          rw [hostAccess_read hw] at h'
          injection h' with h'
          exact .inr (.inr (.inr (.inl ⟨e, w, off, rest, rfl, hr, hw, h'.symm⟩)))
        | write w off v =>
          rw [hostAccess_write hw] at h'
          injection h' with h'
          exact .inr (.inr (.inr (.inr ⟨e, w, off, v, rest, rfl, hr, hw, h'.symm⟩)))
      · rw [hostAccess_outside hw] at h'
        cases h'

/-- The parts of a state a read of `DDATA` can change (20_memory.md R65). -/
theorem State.readPort_cases (s : State) :
    (s.busy = true ∧ s.readPort = (0, s.setAv)) ∨
      (s.busy = false ∧ s.cfg.bufBytes ≤ s.dptr.toNat ∧ s.readPort = (0, s.setAv.advanceDptr)) ∨
      (s.busy = false ∧ s.dptr.toNat < s.cfg.bufBytes ∧
        s.readPort = ((s.memRead s.dptr.toNat).setWidth 32, s.advanceDptr)) := by
  unfold State.readPort
  cases s.busy
  · by_cases h : s.cfg.bufBytes ≤ s.dptr.toNat
    · simp [h]
    · simp [h, Nat.lt_of_not_le h]
  · simp

/-- The parts of a state a write of `DDATA` can change (20_memory.md R66). -/
theorem State.writePort_cases (v : Word) (s : State) :
    (s.busy = true ∧ s.writePort v = s.setAv) ∨
      (s.busy = false ∧ s.cfg.bufBytes ≤ s.dptr.toNat ∧ s.writePort v = s.setAv.advanceDptr) ∨
      (s.busy = false ∧ s.dptr.toNat < s.cfg.bufBytes ∧
        s.writePort v = (s.memWrite s.dptr.toNat (v.setWidth 8)).advanceDptr) := by
  unfold State.writePort
  cases s.busy
  · by_cases h : s.cfg.bufBytes ≤ s.dptr.toNat
    · simp [h]
    · simp [h, Nat.lt_of_not_le h]
  · simp

/-- The register an offset of the aperture selects (20_memory.md R61). -/
theorem regAt_cases (off : Nat) :
    (off = 0x00 ∧ regAt off = some .ctrl) ∨ (off = 0x04 ∧ regAt off = some .status) ∨
      (off = 0x08 ∧ regAt off = some .cmd) ∨ (off = 0x0C ∧ regAt off = some .len) ∨
      (off = 0x10 ∧ regAt off = some .dptr) ∨ (off = 0x14 ∧ regAt off = some .ddata) ∨
      (off ≠ 0x00 ∧ off ≠ 0x04 ∧ off ≠ 0x08 ∧ off ≠ 0x0C ∧ off ≠ 0x10 ∧ off ≠ 0x14 ∧ regAt off = none) := by
  unfold regAt
  split <;> simp_all

end Sys2Proof.Machine
end

