-- ==== Sys2Proof/Laws/HostPort.lean ====
section
/-! SUPPORT. Laws/HostPort.lean: each access by its register, a step that performs an access, and runs of several
steps. -/

namespace Sys2Proof.Machine

@[simp] theorem State.hostRead_ctrl (s : State) : s.hostRead 0x00 = (s.ctrlWord, s) := rfl
@[simp] theorem State.hostRead_status (s : State) : s.hostRead 0x04 = (s.statusWord, s) := rfl
@[simp] theorem State.hostRead_cmd (s : State) : s.hostRead 0x08 = (0, s) := rfl
@[simp] theorem State.hostRead_len (s : State) : s.hostRead 0x0C = (s.len, s) := rfl
@[simp] theorem State.hostRead_dptr (s : State) : s.hostRead 0x10 = (s.dptr, s) := rfl
@[simp] theorem State.hostRead_ddata (s : State) : s.hostRead 0x14 = s.readPort := rfl

@[simp] theorem State.hostWrite_ctrl (v : Word) (s : State) : s.hostWrite 0x00 v = s.writeCtrl v := rfl
@[simp] theorem State.hostWrite_status (v : Word) (s : State) : s.hostWrite 0x04 v = s.writeStatus v := rfl
@[simp] theorem State.hostWrite_cmd (v : Word) (s : State) : s.hostWrite 0x08 v = s.issue v := rfl
@[simp] theorem State.hostWrite_len (v : Word) (s : State) : s.hostWrite 0x0C v = s.writeLen v := rfl
@[simp] theorem State.hostWrite_dptr (v : Word) (s : State) : s.hostWrite 0x10 v = s.writeDptr v := rfl
@[simp] theorem State.hostWrite_ddata (v : Word) (s : State) : s.hostWrite 0x14 v = s.writePort v := rfl

theorem regAt_reserved {off : Nat} (h : 0x18 ≤ off) : regAt off = none := by
  rcases regAt_cases off with h | h | h | h | h | h | h <;> first | omega | exact h.2.2.2.2.2.2

theorem State.hostRead_reserved (s : State) {off : Nat} (h : 0x18 ≤ off) : s.hostRead off = (0, s) := by
  simp [State.hostRead, regAt_reserved h]

theorem State.hostWrite_reserved (v : Word) (s : State) {off : Nat} (h : 0x18 ≤ off) : s.hostWrite off v = s := by
  simp [State.hostWrite, regAt_reserved h]

/-- Every host write keeps the parameters, and no access clears `BUSY`. -/
theorem State.hostWrite_cfg (off : Nat) (v : Word) (s : State) : (s.hostWrite off v).cfg = s.cfg := by
  unfold State.hostWrite
  cases regAt off with
  | none => rfl
  | some r =>
    cases r
    · rfl
    · rfl
    · rcases State.issue_cases v s with ⟨-, h⟩ | ⟨-, i, -, h⟩ | ⟨-, e, -, h⟩ <;> simp [h]
    · simp only [State.writeLen]; split <;> rfl
    · simp only [State.writeDptr]; split <;> rfl
    · rcases State.writePort_cases v s with ⟨-, h⟩ | ⟨-, -, h⟩ | ⟨-, -, h⟩ <;> simp [h]

theorem step_write {s : State} {off : Nat} {v : Word} {rest : List Event} (hoff : InAperture off)
    (h : s.events = .access (.write .word off v) :: rest) :
    step s = .next (State.hostWrite off v { s with events := rest }) := by
  rw [step_cons h]
  exact hostAccess_write ⟨rfl, hoff⟩

theorem step_read {s : State} {off : Nat} {rest : List Event} (hoff : InAperture off)
    (h : s.events = .access (.read .word off) :: rest) :
    step s = .next (State.record (State.hostRead off { s with events := rest })) := by
  rw [step_cons h]
  exact hostAccess_read ⟨rfl, hoff⟩

theorem step_engine {s : State} {rest : List Event} {i : Instr} (h : s.events = .engine :: rest) (hb : s.busy = true)
    (hd : decode s.fetch = .ok i) : step s = exec i { s with events := rest } := by
  rw [step_cons h]
  exact engineTurn_busy (s := { s with events := rest }) hb hd

theorem run_zero (s : State) : Host.Core.run core 0 s = .next s := rfl

theorem coreRun_next (M : Host.Core) (k : Nat) {s t : M.State} (h : M.step s = .next t) :
    M.run (k + 1) s = M.run k t := by rw [Host.Core.run, h]

theorem coreRun_add (M : Host.Core) {j : Nat} (k : Nat) {s t : M.State} (h : M.run j s = .next t) :
    M.run (j + k) s = M.run k t := by
  induction j generalizing s with
  | zero =>
    rw [Host.Core.run] at h
    cases h
    simp
  | succ j ih =>
    cases hs : M.step s with
    | next u =>
      rw [coreRun_next M j hs] at h
      rw [Nat.succ_add, coreRun_next M (j + k) hs, ih h]
    | fault f => rw [Host.Core.run, hs] at h; cases h
    | refused f => rw [Host.Core.run, hs] at h; cases h

/-- A run of one more step, when that step answers a next state. -/
theorem run_next {s t : State} (k : Nat) (h : step s = .next t) :
    Host.Core.run core (k + 1) s = Host.Core.run core k t := coreRun_next core k h

/-- Runs compose. -/
theorem run_add {s t : State} {j : Nat} (k : Nat) (h : Host.Core.run core j s = .next t) :
    Host.Core.run core (j + k) s = Host.Core.run core k t := coreRun_add core k h

end Sys2Proof.Machine
end

