-- ==== Sys2Proof/Laws/PerInstr.lean ====
section
/-! SUPPORT. Laws/PerInstr.lean: the round trip of each command through its encoding, one lemma per constructor. -/

namespace Sys2Proof.Laws.DecodeEncode

/-- The command is well formed and its full word decodes to it (30_encoding.md R92, R95). -/
def Statement (i : Instr) : Prop := i.wellFormed = true ∧ decode (encode i) = .ok i

theorem nop : Statement .nop := ⟨rfl, rfl⟩
theorem mask : Statement .mask := ⟨rfl, rfl⟩
theorem denc : Statement .denc := ⟨rfl, rfl⟩
theorem ddec : Statement .ddec := ⟨rfl, rfl⟩
theorem b64e : Statement .b64e := ⟨rfl, rfl⟩
theorem b64d : Statement .b64d := ⟨rfl, rfl⟩
theorem penc : Statement .penc := ⟨rfl, rfl⟩
theorem pdec : Statement .pdec := ⟨rfl, rfl⟩

end Sys2Proof.Laws.DecodeEncode
end

