-- ==== Sys2Proof/Tests/Slice0.lean ====
section
/-! SUPPORT. Tests/Slice0.lean: ill-formed terms the checks refuse, words written out bit by bit, vectors of
95_test_vectors.md, and for every obligation with hypotheses a state and operands that meet them. -/

namespace Sys2Proof.Tests

open Sys2Proof Sys2Proof.Machine

/-! ## Small states -/

/-- The next state of an outcome, if there is one. -/
def nextOf (o : Host.Outcome State Fault Refusal) : Option State :=
  match o with
  | .next t => some t
  | .fault _ => none
  | .refused _ => none

/-- The reset state with a message loaded and written. -/
def holding (m : List Byte) : State :=
  { State.reset with len := BitVec.ofNat 32 m.length, data := Memory.putAll 0 m [] }

/-- The reset state with `LEN = n`. -/
def withLen (n : Nat) : State := { State.reset with len := BitVec.ofNat 32 n }

/-- A state with a command pending, and events to come. -/
def pending (op : Byte) (es : List Event) : State := { State.reset with busy := true, pendOp := op, events := es }

/-- An idle state at `DPTR = p` with events to come. -/
def idleAt (p : Word) (es : List Event) : State := { State.reset with dptr := p, events := es }

/-- An idle state with `DONE = 1`. -/
def finished (es : List Event) : State := { State.reset with done := true, ie := true, events := es }

/-- What a command leaves of a message: `ERR`, `LEN` and the bytes listed in `DATA`. -/
def run (i : Instr) (m : List Byte) : Option (ErrCode × Nat × List Byte) :=
  (nextOf (exec i (holding m))).map fun t => (t.err, t.len.toNat, t.data.map (·.2))

/-- `STATUS` and `DPTR` after one step. -/
def stepRegs (s : State) : Option (Word × Word) := (nextOf (step s)).map fun t => (t.statusWord, t.dptr)

/-! ## Well-formedness: an ill-formed term for each check -/

theorem test_commands_well_formed : ∀ i ∈ [Instr.nop, .mask, .denc, .ddec, .b64e, .b64d, .penc, .pdec],
    i.wellFormed = true := by decide
theorem test_access_well_formed : (Access.read .word 0x3C).WellFormed := by decide
theorem test_access_half_word : ¬ (Access.read .half 0x04).WellFormed := by decide
theorem test_access_byte : ¬ (Access.write .byte 0x14 0x41).WellFormed := by decide
theorem test_access_misaligned : ¬ (Access.read .word 0x06).WellFormed := by decide
theorem test_access_out_of_aperture : ¬ (Access.write .word 0x40 0).WellFormed := by decide
theorem test_access_refused :
    step (idleAt 0 [.access (.read .word 0x40)]) = .refused .accessOutsideInterface := by rfl
theorem test_reference_profile_valid : referenceProfile.Valid := by decide +kernel
theorem test_config_repeated_letter :
    ¬ Config.Valid { referenceProfile with alphabet := referenceAlphabet.set 1 0x41 } :=
  fun h => absurd h.1 (by decide +kernel)
theorem test_config_unprintable_letter :
    ¬ Config.Valid { referenceProfile with alphabet := referenceAlphabet.set 0 0x20 } :=
  fun h => absurd (h.2.1 0x20 (by decide)) (by decide)
theorem test_config_unprintable_pad : ¬ Config.Valid { referenceProfile with pad := 0x7F } :=
  fun h => absurd h.2.2.1 (by decide)
theorem test_config_pad_is_a_letter : ¬ Config.Valid { referenceProfile with pad := 0x41 } :=
  fun h => absurd (by decide) h.2.2.2.1
theorem test_config_no_buffer : ¬ Config.Valid { referenceProfile with bufBytes := 0 } :=
  fun h => absurd h.2.2.2.2.1 (by decide)
theorem test_config_buffer_too_large : ¬ Config.Valid { referenceProfile with bufBytes := 2 ^ 31 + 1 } :=
  fun h => absurd h.2.2.2.2.2 (by decide)
theorem test_memory_wf : Memory.wf [(0, 0x41), (3, 0x42)] := by decide
theorem test_memory_repeated_index : ¬ Memory.wf [(3, 0x41), (3, 0x42)] := by decide
theorem test_memory_falling_index : ¬ Memory.wf [(3, 0x41), (0, 0x42)] := by decide

/-! ## Decoding: RSVD (24 bits), then OPC (8 bits), from 30_encoding.md R90, R92, R93 -/

theorem test_decode_nop : decode (0b000000000000000000000000#24 ++ 0b00000000#8) = .ok .nop := by rfl
theorem test_decode_mask : decode (0b000000000000000000000000#24 ++ 0b00000001#8) = .ok .mask := by rfl
theorem test_decode_denc : decode (0b000000000000000000000000#24 ++ 0b00000010#8) = .ok .denc := by rfl
theorem test_decode_ddec : decode (0b000000000000000000000000#24 ++ 0b00000011#8) = .ok .ddec := by rfl
theorem test_decode_b64e : decode (0b000000000000000000000000#24 ++ 0b00000100#8) = .ok .b64e := by rfl
theorem test_decode_b64d : decode (0b000000000000000000000000#24 ++ 0b00000101#8) = .ok .b64d := by rfl
theorem test_decode_penc : decode (0b000000000000000000000000#24 ++ 0b00000110#8) = .ok .penc := by rfl
theorem test_decode_pdec : decode (0b000000000000000000000000#24 ++ 0b00000111#8) = .ok .pdec := by rfl
theorem test_decode_unassigned :
    decode (0b000000000000000000000000#24 ++ 0b00001000#8) = .error .opcodeUnassigned := by rfl
theorem test_decode_reserved_low :
    decode (0b000000000000000000000001#24 ++ 0b00000000#8) = .error .reservedNotZero := by rfl
theorem test_decode_reserved_high :
    decode (0b100000000000000000000000#24 ++ 0b00000001#8) = .error .reservedNotZero := by rfl
theorem test_table_word_too_wide : decodeTableWord 32 (2 ^ 32) = none := by decide

/-! ## Vectors (95_test_vectors.md section 2), at most two for each command -/

/-- Section 2.5: `NOP` succeeds and leaves `LEN`, even with `LEN = 0xFFFFFFFF`. -/
theorem test_nop : (nextOf (exec .nop { State.reset with len := 0xFFFFFFFF })).map (fun t => (t.statusWord, t.len)) =
    some (0x00000002, 0xFFFFFFFF) := by decide
/-- Section 2.1, L = 9: the cycle restarts at `MB(0)` at index 1. -/
theorem test_mask_nine : run .mask [0, 0, 0, 0, 0, 0, 0, 0, 0] =
    some (.none, 9, [0x00, 0xDE, 0xAD, 0xBE, 0xEF, 0xDE, 0x00, 0x00, 0x00]) := by decide
/-- Section 2.1, L = 3: the interior is empty. -/
theorem test_mask_three : run .mask [1, 2, 3] = some (.none, 3, [1, 2, 3]) := by decide
/-- Section 2.2: byte 2 gets both keys. -/
theorem test_denc_accumulates : run .denc [0x01, 0x01, 0x01] = some (.none, 3, [0x01, 0x07, 0x01]) := by decide
/-- Section 2.2: `KEY(0x71) = 0xC5`, the nearest-integer case. -/
theorem test_denc_nearest_case : run .denc [0x71, 0x00, 0x00] = some (.none, 3, [0x71, 0xC5, 0xC5]) := by decide
/-- Section 2.2: decode takes its keys from the output. -/
theorem test_ddec_output_keys : run .ddec [0x01, 0x01, 0x01] = some (.none, 3, [0x01, 0x07, 0x2C]) := by decide
/-- Section 2.2: `DDEC` of the `DENC` of "Hello". -/
theorem test_ddec_hello : run .ddec [0x48, 0xA1, 0xD2, 0x74, 0xD1] =
    some (.none, 5, [0x48, 0x65, 0x6C, 0x6C, 0x6F]) := by decide
/-- Section 2.3: `FB FF` gives "+/8=". -/
theorem test_b64e_two_bytes : run .b64e [0xFB, 0xFF] = some (.none, 4, [0x2B, 0x2F, 0x38, 0x3D]) := by decide
/-- Section 2.3: "foob" gives "Zm9vYg==". -/
theorem test_b64e_four_bytes : run .b64e [0x66, 0x6F, 0x6F, 0x62] =
    some (.none, 8, [0x5A, 0x6D, 0x39, 0x76, 0x59, 0x67, 0x3D, 0x3D]) := by decide
/-- Section 2.3: "Zm8=" gives `66 6F`; the two characters above the new `LEN` stay. -/
theorem test_b64d_one_pad : run .b64d [0x5A, 0x6D, 0x38, 0x3D] =
    some (.none, 2, [0x66, 0x6F, 0x38, 0x3D]) := by decide
/-- Section 2.3: "Zg==Zg==" has padding in a chunk that is not the last; nothing changes. -/
theorem test_b64d_inner_pad : run .b64d [0x5A, 0x67, 0x3D, 0x3D, 0x5A, 0x67, 0x3D, 0x3D] =
    some (.invalidCharacter, 8, [0x5A, 0x67, 0x3D, 0x3D, 0x5A, 0x67, 0x3D, 0x3D]) := by decide
/-- Section 2.4: "abcd" gives "v395Qw==". -/
theorem test_penc_abcd : run .penc [0x61, 0x62, 0x63, 0x64] =
    some (.none, 8, [0x76, 0x33, 0x39, 0x35, 0x51, 0x77, 0x3D, 0x3D]) := by decide
/-- Section 1, S2: "Hello, World!" gives "SH+TPEkfkIFfV68BMA==". -/
theorem test_penc_hello_world :
    run .penc [0x48, 0x65, 0x6C, 0x6C, 0x6F, 0x2C, 0x20, 0x57, 0x6F, 0x72, 0x6C, 0x64, 0x21] =
      some (.none, 20, [0x53, 0x48, 0x2B, 0x54, 0x50, 0x45, 0x6B, 0x66, 0x6B, 0x49, 0x46, 0x66, 0x56, 0x36, 0x38, 0x42,
        0x4D, 0x41, 0x3D, 0x3D]) := by decide
/-- Section 2.4: "////" gives `FF BD 1E`. -/
theorem test_pdec_slashes : run .pdec [0x2F, 0x2F, 0x2F, 0x2F] = some (.none, 3, [0xFF, 0xBD, 0x1E, 0x2F]) := by decide
/-- Section 2.5, priority: `PDEC` of "Zg=AZg==" gives `INVALID_CHARACTER`. -/
theorem test_pdec_priority : run .pdec [0x5A, 0x67, 0x3D, 0x41, 0x5A, 0x67, 0x3D, 0x3D] =
    some (.invalidCharacter, 8, [0x5A, 0x67, 0x3D, 0x41, 0x5A, 0x67, 0x3D, 0x3D]) := by decide

/-! ## The command frame (95_test_vectors.md section 2.5) -/

theorem test_issue_accepted : stepRegs (finished [wr .cmd 0x00000001]) = some (0x00000001, 0) := by decide
theorem test_issue_illegal : stepRegs (idleAt 0 [wr .cmd 0x00000100]) = some (0x00000302, 0) := by decide
theorem test_issue_busy : stepRegs (pending 1 [wr .cmd 0x00000002]) = some (0x00000005, 0) := by decide
theorem test_port_busy : stepRegs (pending 1 [rd .ddata]) = some (0x00000005, 0) := by decide
theorem test_port_out_of_range : stepRegs (idleAt 4096 [rd .ddata]) = some (0x00000004, 4097) := by decide
theorem test_port_wraps : stepRegs (idleAt 0xFFFFFFFF [wr .ddata 0]) = some (0x00000004, 0) := by decide
theorem test_port_last_byte : (nextOf (step (idleAt 4095 [wr .ddata 0x1234]))).map (fun t => (t.data, t.dptr, t.av)) =
    some ([(4095, 0x34)], 4096, false) := by decide
theorem test_acknowledge :
    stepRegs { finished [wr .status 0x00000002] with err := .illegalCommand, av := true } =
      some (0x00000304, 0) := by decide
theorem test_reset_while_busy : stepRegs { pending 6 [.reset] with len := 9, dptr := 5 } = some (0, 0) := by decide
theorem test_placed_word_runs :
    (nextOf (step (State.reset.withFetchWord 32 6))).map (·.statusWord) = some 0x00000002 := by decide

/-! ## The data port reads what nothing has written as a free value -/

theorem test_unwritten_byte (i : Nat) : State.reset.memRead i = Config.freeByte 0 i := by rfl

/-! ## Witnesses: for each obligation with hypotheses, what meets them, clause by clause -/

theorem test_witness_DecodeOfEncodeIsTheCommand : Instr.wellFormed .pdec = true := by decide

theorem test_witness_StepRunsThePendingCommand :
    ((pending 7 []).busy = true ∧ decode ((pending 7 []).pendOp.setWidth 32) = .ok .pdec ∧ (pending 7 []).events = []) ∧
    ((pending 0 [.engine, .reset]).busy = true ∧ decode ((pending 0 [.engine, .reset]).pendOp.setWidth 32) = .ok .nop ∧
      (pending 0 [.engine, .reset]).events = .engine :: [.reset]) ∧
    ((idleAt 0 []).busy = false ∧ (idleAt 0 []).events = []) ∧
    ((idleAt 0 [.engine]).busy = false ∧ (idleAt 0 [.engine]).events = .engine :: []) :=
  ⟨⟨rfl, rfl, rfl⟩, ⟨rfl, rfl, rfl⟩, ⟨rfl, rfl⟩, ⟨rfl, rfl⟩⟩

theorem test_witness_StepPerformsTheNextEvent :
    (idleAt 0 [rd .len]).events = .access (.read .word 0x0C) :: [] ∧ (idleAt 0 [.reset]).events = .reset :: [] := by
  decide

theorem test_witness_PlacedWordRunsInTheNextStep :
    (8 ≤ 8 ∧ 8 < 2 ^ 32) ∧ (8 ≤ 2 ^ 32 - 1 ∧ 2 ^ 32 - 1 < 2 ^ 32) := by decide

theorem test_witness_NopOnlyEndsWithSuccess :
    let s := idleAt 0 [.access (.write .word 0x08 0x00000000), .engine]
    s.busy = false ∧ s.av = false ∧ s.events = .access (.write .word 0x08 0x00000000) :: .engine :: [] := by decide

theorem test_witness_MaskApplyByteFormula :
    (let s : List Byte := [1, 2, 3]; s.length < s.length % 4 + (if s.length % 4 ≠ 0 then 4 - s.length % 4 else 0)) ∧
    (let s : List Byte := [1, 2, 3, 4, 5]; 0 < s.length ∧ 4 < s.length) := by decide

theorem test_witness_MaskCommandInPlace :
    (withLen 4097).cfg.bufBytes < (withLen 4097).len.toNat ∧ (withLen 4096).len.toNat ≤ (withLen 4096).cfg.bufBytes := by
  decide

theorem test_witness_MaskTwiceRestores : (withLen 4096).len.toNat ≤ (withLen 4096).cfg.bufBytes := by decide

theorem test_witness_DiffusionRecursion : ([0x55] : List Byte) ≠ [] := by decide

theorem test_witness_DiffusionScan : 0 < ([0x55] : List Byte).length := by decide

theorem test_witness_DencCommandInPlace :
    (withLen 4097).cfg.bufBytes < (withLen 4097).len.toNat ∧ (withLen 4096).len.toNat ≤ (withLen 4096).cfg.bufBytes := by
  decide

theorem test_witness_DdecCommandInPlace :
    (withLen 4097).cfg.bufBytes < (withLen 4097).len.toNat ∧ (withLen 4096).len.toNat ≤ (withLen 4096).cfg.bufBytes := by
  decide

theorem test_witness_DiffusionInverse : (withLen 4096).len.toNat ≤ (withLen 4096).cfg.bufBytes := by decide

theorem test_witness_Base64EncodeCharFormula :
    let s : List Byte := [0x66]; 0 < 4 * ((s.length + 2) / 3) ∧ 3 < 4 * ((s.length + 2) / 3) := by decide

theorem test_witness_EncodedLengthAndPadding : referenceProfile.Valid := test_reference_profile_valid

/-- The 6-bit values of the characters of "Zg==": `Z` is 25 and `g` is 32 (00_scope.md R7). -/
def valuesZg (i : Nat) : Fin 64 := if i = 0 then 25 else if i = 1 then 32 else 0

theorem test_witness_Base64DecodeOutcome :
    referenceProfile.Valid ∧
    (let t : List Byte := [0x5A, 0x67, 0x3D]; t.length % 4 ≠ 0) ∧
    (let t : List Byte := [0x5A, 0x67, 0x3D, 0x41]
     t.length % 4 = 0 ∧ 2 < t.length - specPads referenceProfile t ∧
       ∀ g : Fin 64, referenceProfile.alphabet.get g ≠ t.getD 2 0) ∧
    (let t : List Byte := [0x5A, 0x67, 0x3D, 0x3D]
     t.length % 4 = 0 ∧
       (∀ i, i < t.length - specPads referenceProfile t → referenceProfile.alphabet.get (valuesZg i) = t.getD i 0) ∧
       ∀ i, t.length - specPads referenceProfile t ≤ i → valuesZg i = 0) := by
  refine ⟨test_reference_profile_valid, by decide, by decide, by decide, by decide, fun i hi => ?_⟩
  have h : 2 ≤ i := hi
  simp [valuesZg, show i ≠ 0 by omega, show i ≠ 1 by omega]

theorem test_witness_NonCanonicalBitsIgnored :
    referenceProfile.Valid ∧ ([] : List Byte).length % 4 = 0 ∧ (32 : Fin 64).val / 16 = (47 : Fin 64).val / 16 ∧
      (60 : Fin 64).val / 4 = (63 : Fin 64).val / 4 := ⟨test_reference_profile_valid, by decide⟩

theorem test_witness_Base64RoundTrip : referenceProfile.Valid := test_reference_profile_valid

theorem test_witness_Base64CharacterSet :
    referenceProfile.Valid ∧ (0x3D : Byte) ∈ b64Enc referenceProfile [0x66] ∧
      (let t : List Byte := [0x5A, 0x67, 0x2A, 0x3D]
       t.length % 4 = 0 ∧ (0x2A : Byte) ∈ t ∧ (0x2A : Byte) ∉ referenceProfile.alphabet.toList ∧
         (0x2A : Byte) ≠ referenceProfile.pad) := ⟨test_reference_profile_valid, by decide⟩

theorem test_witness_B64eCommandInPlace :
    State.reset.cfg.bufBytes ≤ 2 ^ 31 ∧ (withLen 4097).cfg.bufBytes < (withLen 4097).len.toNat ∧
      (withLen 3073).cfg.bufBytes < 4 * (((withLen 3073).len.toNat + 2) / 3) ∧
      4 * (((withLen 3072).len.toNat + 2) / 3) ≤ (withLen 3072).cfg.bufBytes := by decide

theorem test_witness_B64dCommandInPlace :
    (withLen 4097).cfg.bufBytes < (withLen 4097).len.toNat ∧
      (let s := holding [0x5A, 0x67, 0x3D, 0x41]
       s.len.toNat ≤ s.cfg.bufBytes ∧ b64Dec s.cfg s.message = .error .invalidCharacter) ∧
      (let s := holding [0x5A]
       s.len.toNat ≤ s.cfg.bufBytes ∧ b64Dec s.cfg s.message = .error .invalidLength) ∧
      (let s := holding [0x5A, 0x67, 0x3D, 0x3D]
       s.len.toNat ≤ s.cfg.bufBytes ∧ b64Dec s.cfg s.message = .ok [0x66]) :=
  ⟨by decide, ⟨by decide, rfl⟩, ⟨by decide, rfl⟩, ⟨by decide, rfl⟩⟩

theorem test_witness_B64dUndoesB64e :
    (withLen 3072).cfg.Valid ∧ 4 * (((withLen 3072).len.toNat + 2) / 3) ≤ (withLen 3072).cfg.bufBytes :=
  ⟨test_reference_profile_valid, by decide⟩

theorem test_witness_PencIsMaskDencB64e :
    State.reset.cfg.bufBytes ≤ 2 ^ 31 ∧ (withLen 4097).cfg.bufBytes < (withLen 4097).len.toNat ∧
      (withLen 3073).cfg.bufBytes < 4 * (((withLen 3073).len.toNat + 2) / 3) ∧
      4 * (((withLen 3072).len.toNat + 2) / 3) ≤ (withLen 3072).cfg.bufBytes := by decide

theorem test_witness_PdecIsB64dDdecMask :
    (withLen 4097).cfg.bufBytes < (withLen 4097).len.toNat ∧
      (let s := holding [0x5A, 0x67, 0x3D]
       s.len.toNat ≤ s.cfg.bufBytes ∧ b64Dec s.cfg s.message = .error .invalidLength) ∧
      (let s := holding [0x2F, 0x2F, 0x2F, 0x2F]
       s.len.toNat ≤ s.cfg.bufBytes ∧ b64Dec s.cfg s.message = .ok [0xFF, 0xFF, 0xFF]) :=
  ⟨by decide, ⟨by decide, rfl⟩, ⟨by decide, rfl⟩⟩

theorem test_witness_PipelineRoundTrip :
    let msg : List Byte := [0x48, 0x69]
    let s := idleAt 0 (loadOf msg ++ issueOf .penc ++ [.engine] ++ issueOf .pdec ++ [.engine] ++ [rd .len])
    s.cfg.Valid ∧ s.busy = false ∧ 4 * ((msg.length + 2) / 3) ≤ s.cfg.bufBytes ∧
      s.events = loadOf msg ++ issueOf .penc ++ [.engine] ++ issueOf .pdec ++ [.engine] ++ [rd .len] :=
  ⟨test_reference_profile_valid, by decide⟩

theorem test_witness_CompleteWritesTheOutput :
    (List.replicate 4096 (0 : Byte)).length ≤ State.reset.cfg.bufBytes ∧ State.reset.cfg.bufBytes ≤ 2 ^ 31 ∧
      Instr.mask ≠ .nop ∧ (withLen 4096).len.toNat ≤ (withLen 4096).cfg.bufBytes := by
  rw [List.length_replicate]; decide

theorem test_witness_CapacityRule :
    (Instr.mask ≠ .nop ∧ (withLen 4097).cfg.bufBytes < (withLen 4097).len.toNat) ∧
      (withLen 3073).cfg.bufBytes < 4 * (((withLen 3073).len.toNat + 2) / 3) ∧
      (Instr.b64d ≠ .b64e ∧ Instr.b64d ≠ .penc ∧ (withLen 4096).len.toNat ≤ (withLen 4096).cfg.bufBytes) := by decide

theorem test_witness_ErrorsOfEachCommand :
    ErrCode.invalidLength ∈ possibleErrors .pdec ∧ State.reset.busy = false ∧ 8 ≤ (0x00000008 : Word).toNat := by decide

theorem test_witness_FailureIsAllOrNothing :
    (∃ t, exec .b64d (withLen 1) = .next t ∧ t.err ≠ .none) ∧ State.reset.busy = false ∧
      8 ≤ (0x00000008 : Word).toNat := ⟨⟨_, rfl, by decide⟩, by decide, by decide⟩

theorem test_witness_ErrorPriority :
    (State.reset.busy = false ∧ 8 ≤ (0x00000008 : Word).toNat) ∧
      (Instr.b64d ≠ .nop ∧ (withLen 4097).cfg.bufBytes < (withLen 4097).len.toNat) ∧
      ((withLen 4096).len.toNat ≤ (withLen 4096).cfg.bufBytes ∧ (withLen 4096).len.toNat % 4 = 0) ∧
      ((withLen 4095).len.toNat ≤ (withLen 4095).cfg.bufBytes ∧ (withLen 4095).len.toNat % 4 ≠ 0) ∧
      ((withLen 3073).len.toNat ≤ (withLen 3073).cfg.bufBytes ∧
        (withLen 3073).cfg.bufBytes < 4 * (((withLen 3073).len.toNat + 2) / 3)) ∧
      ((withLen 3072).len.toNat ≤ (withLen 3072).cfg.bufBytes ∧
        4 * (((withLen 3072).len.toNat + 2) / 3) ≤ (withLen 3072).cfg.bufBytes) := by decide

theorem test_witness_FrameOfEveryCommand :
    (∃ t, exec .b64e (holding [0x66]) = .next t ∧ t.err = .none ∧ (storedBytes .b64e (holding [0x66])).length = 4) ∧
      (∃ t, exec .pdec (withLen 1) = .next t ∧ t.err ≠ .none) ∧ (∃ t, exec .nop (withLen 1) = .next t) :=
  ⟨⟨_, rfl, by decide, by decide⟩, ⟨_, rfl, by decide⟩, ⟨_, rfl⟩⟩

theorem test_witness_HostReadReturns : ∀ off ∈ [0x00, 0x04, 0x08, 0x0C, 0x10, 0x14, 0x18, 0x3C],
    InAperture off ∧ (idleAt 0 [.access (.read .word off)]).events = .access (.read .word off) :: [] := by decide

theorem test_witness_DataPortRead :
    ((pending 1 [rd .ddata]).events = .access (.read .word 0x14) :: [] ∧ (pending 1 [rd .ddata]).busy = true) ∧
      (let s := idleAt 4096 [rd .ddata]
       s.events = .access (.read .word 0x14) :: [] ∧ s.busy = false ∧ s.cfg.bufBytes ≤ s.dptr.toNat) ∧
      (let s := idleAt 4095 [rd .ddata]
       s.events = .access (.read .word 0x14) :: [] ∧ s.busy = false ∧ s.dptr.toNat < s.cfg.bufBytes) := by decide

theorem test_witness_HostWriteDoes : ∀ off ∈ [0x00, 0x04, 0x08, 0x0C, 0x10, 0x14, 0x18, 0x3C],
    InAperture off ∧
      ((idleAt 0 [.access (.write .word off 7)]).events = .access (.write .word off 7) :: [] ∧
        (idleAt 0 [.access (.write .word off 7)]).busy = false) ∧
      ((pending 1 [.access (.write .word off 7)]).events = .access (.write .word off 7) :: [] ∧
        (pending 1 [.access (.write .word off 7)]).busy = true) := by decide

theorem test_witness_DataPortWrite :
    (let s := pending 1 [wr .ddata 0x41]
     s.events = .access (.write .word 0x14 0x41) :: [] ∧ s.busy = true) ∧
      (let s := idleAt 4096 [wr .ddata 0x41]
       s.events = .access (.write .word 0x14 0x41) :: [] ∧ s.busy = false ∧ s.cfg.bufBytes ≤ s.dptr.toNat) ∧
      (let s := idleAt 4095 [wr .ddata 0x41]
       s.events = .access (.write .word 0x14 0x41) :: [] ∧ s.busy = false ∧ s.dptr.toNat < s.cfg.bufBytes) := by decide

theorem test_witness_DataPointerWraps :
    (let s := idleAt 0xFFFFFFFF [rd .ddata]
     s.cfg.Valid ∧ s.busy = false ∧ s.dptr = 0xFFFFFFFF ∧ s.events = .access (.read .word 0x14) :: []) ∧
      (let s := idleAt 0xFFFFFFFF [wr .ddata 0]
       s.cfg.Valid ∧ s.busy = false ∧ s.dptr = 0xFFFFFFFF ∧ s.events = .access (.write .word 0x14 0) :: []) :=
  ⟨⟨test_reference_profile_valid, by decide⟩, ⟨test_reference_profile_valid, by decide⟩⟩

theorem test_witness_IssueOfACommand :
    (let s := pending 1 [wr .cmd 2]; s.events = .access (.write .word 0x08 2) :: [] ∧ s.busy = true) ∧
      (let s := idleAt 0 [wr .cmd 7]
       s.events = .access (.write .word 0x08 7) :: [] ∧ s.busy = false ∧ (7 : Word).toNat < 8) ∧
      (let s := idleAt 0 [wr .cmd 8]
       s.events = .access (.write .word 0x08 8) :: [] ∧ s.busy = false ∧ 8 ≤ (8 : Word).toNat) ∧
      8 ≤ (0xFFFFFFFF : Word).toNat := by decide

theorem test_witness_ReservedReadsZeroIgnoresWrites :
    (∀ off ∈ [0x18, 0x3C], InAperture off ∧ 0x18 ≤ off ∧
      (idleAt 0 [.access (.read .word off)]).events = .access (.read .word off) :: [] ∧
      (idleAt 0 [.access (.write .word off 5)]).events = .access (.write .word off 5) :: []) ∧
      (0xFFFFFFFF : Word).getLsbD 0 = (0x00000001 : Word).getLsbD 0 ∧
      (0xFFFFFFFF : Word).getLsbD 1 = (0x00000006 : Word).getLsbD 1 ∧
      (0xFFFFFFFF : Word).getLsbD 2 = (0x00000006 : Word).getLsbD 2 := by decide

theorem test_witness_AccessHasStepExactlyInTheInterface :
    (let a := Access.read .word 0x3C
     (idleAt 0 [.access a]).events = .access a :: [] ∧ a.width = .word ∧ a.off % 4 = 0 ∧ a.off ≤ 0x3C) ∧
      (∀ a ∈ [Access.read .byte 0x3C, Access.read .word 0x3E, Access.write .word 0x40 0],
        (idleAt 0 [.access a]).events = .access a :: [] ∧
          ¬ (a.width = .word ∧ a.off % 4 = 0 ∧ a.off ≤ 0x3C)) := by decide

/-- The reset state of a block at `BXM_BASE = 0x4000`, with events to come. -/
def mapped (es : List Event) : State :=
  { State.resetWith { referenceProfile with base := 0x4000 } with events := es }

theorem test_bus_write : stepRegs (mapped [.bus (.write .word 0x4010 7)]) = some (0x00000000, 7) := by decide

theorem test_witness_BusAddressSelectsTheOffset :
    (∀ off ∈ [0x00, 0x14, 0x3C, 0x3F], off < 0x40 ∧
      (mapped [.bus (.read .word (0x4000 + off))]).events = .bus (.read .word ((mapped []).cfg.base + off)) :: [] ∧
      (mapped [.bus (.write .word (0x4000 + off) 5)]).events =
        .bus (.write .word ((mapped []).cfg.base + off) 5) :: []) ∧
      (Access.read .word 0x3FFC).off < (mapped []).cfg.base ∧
      (mapped []).cfg.base + 0x40 ≤ (Access.write .word 0x4040 0).off ∧
      (∃ t, step (mapped [.bus (.write .word 0x4014 0x41)]) = .next t ∧ t.data ≠ (mapped []).data) :=
  ⟨by decide, by decide, by decide, ⟨_, rfl, by decide⟩⟩

theorem test_witness_InteriorLength :
    (∀ j, j < 4 → specMaskByte 0xDEADBEEF j ≠ 0) ∧
      (let s : List Byte := [1, 2, 3, 4, 5]; leadPad s.length ≤ 1 ∧ 1 < s.length - trailPad s.length) := by decide

theorem test_witness_IdempotentAccesses : (0x10 : Nat) ≠ 0x14 ∧ (0x18 : Nat) ≠ 0x14 := by decide

theorem test_witness_AccessViolations :
    (∃ t, step (pending 1 [wr .len 7]) = .next t ∧ Violates (wr .len 7) (pending 1 [wr .len 7])) ∧
      (∃ t, step (idleAt 4096 [rd .ddata]) = .next t ∧ Violates (rd .ddata) (idleAt 4096 [rd .ddata])) ∧
      (∃ t, step { idleAt 0 [wr .status 4] with av := true } = .next t ∧ ClearsAv (wr .status 4) { idleAt 0 [wr .status 4] with av := true }) ∧
      (∃ t, step (pending 1 []) = .next t ∧ (pending 1 []).events = []) :=
  ⟨⟨_, rfl, .inl ⟨rfl, .inr (.inl rfl)⟩⟩, ⟨_, rfl, rfl, .inr (by decide)⟩, ⟨_, rfl, rfl, by decide⟩, ⟨_, rfl, rfl⟩⟩

theorem test_witness_BusyAccessLeavesTheCommandAlone :
    (pending 6 []).busy = true ∧ (Access.write .word 0x08 2).WellFormed ∧ (Access.read .word 0x14).WellFormed := by decide

theorem test_witness_InterruptFollowsCompletion : State.reset.busy = false ∧ 8 ≤ (0x00000100 : Word).toNat := by decide

theorem test_witness_OnlyAcknowledgesClearDone :
    (∃ t, step (finished [wr .status 2]) = .next t ∧ (finished [wr .status 2]).done = true ∧
      ClearsDone (wr .status 2) (finished [wr .status 2])) ∧
      (∃ t, step (finished [wr .cmd 7]) = .next t ∧ ClearsDone (wr .cmd 7) (finished [wr .cmd 7])) ∧
      (∃ t, step (finished [.reset]) = .next t ∧ ClearsDone .reset (finished [.reset])) ∧
      (∃ t, step (finished [wr .cmd 8]) = .next t ∧ ¬ ClearsDone (wr .cmd 8) (finished [wr .cmd 8])) ∧
      (∃ t, step (finished []) = .next t ∧ (finished []).events = [] ∧ (finished []).done = true) := by
  refine ⟨⟨_, rfl, rfl, .inl ⟨rfl, by decide⟩⟩, ⟨_, rfl, .inr ⟨rfl, rfl, by decide⟩⟩, ⟨_, rfl, trivial⟩,
    ⟨_, rfl, ?_⟩, ⟨_, rfl, rfl, rfl⟩⟩
  rintro (⟨h, -⟩ | ⟨-, -, h⟩)
  · exact absurd h (by decide)
  · exact absurd h (by decide)

theorem test_witness_ResetLeavesTheResetState :
    (pending 6 [.reset]).events = .reset :: [] ∧ (pending 6 [.reset]).busy = true := by decide

/-- A pending command in a state that meets the invariant. -/
theorem pending_inv (es : List Event) : (pending 7 es).Inv :=
  ⟨by simp [pending, State.reset, State.resetWith], by simp [pending, State.reset, State.resetWith], fun _ => rfl,
    fun _ => rfl, fun _ => (by decide : (7 : Byte).toNat < 8), test_reference_profile_valid⟩

theorem test_witness_EveryStepKeepsTheInvariant :
    (pending 7 []).Inv ∧ (∃ t, step (pending 7 []) = .next t) ∧ (pending 7 [wr .ddata 1]).Inv ∧
      (∃ t, step (pending 7 [wr .ddata 1]) = .next t) :=
  ⟨pending_inv _, ⟨_, rfl⟩, pending_inv _, ⟨_, rfl⟩⟩

theorem test_witness_ResetMeetsTheInvariant : referenceProfile.Valid := test_reference_profile_valid

theorem test_witness_BusyImpliesDoneAndErrClear :
    ((pending 7 [wr .cmd 2]).busy = true → (pending 7 [wr .cmd 2]).done = false ∧ (pending 7 [wr .cmd 2]).err = .none) ∧
      (∃ t, step (pending 7 [wr .cmd 2]) = .next t ∧ t.busy = true) :=
  ⟨fun _ => ⟨rfl, rfl⟩, ⟨_, rfl, by decide⟩⟩

theorem test_witness_NoStepChangesTheParameters : ∃ t, step (pending 7 []) = .next t := ⟨_, rfl⟩

theorem test_witness_BlockNeverStops :
    (pending 7 [wr .ddata 1]).Inv ∧ ∀ e rest, (pending 7 [wr .ddata 1]).events = e :: rest →
      e.Admitted (pending 7 [wr .ddata 1]).cfg := by
  refine ⟨pending_inv _, fun e rest h => ?_⟩
  have h : wr .ddata 1 :: [] = e :: rest := h
  rw [List.cons.injEq] at h
  obtain ⟨rfl, -⟩ := h
  exact (by decide : (Access.write .word 0x14 1).WellFormed)

theorem test_witness_DataChangesOnlyByPortEngineReset :
    (∃ t, step (idleAt 4095 [wr .ddata 0x41]) = .next t ∧ t.data ≠ (idleAt 4095 [wr .ddata 0x41]).data) ∧
      (∃ t, step { holding [0x66] with busy := true, pendOp := 4 } = .next t ∧ t.data ≠ (holding [0x66]).data) ∧
      (∃ t, step { holding [0x66] with events := [.reset] } = .next t ∧ t.data ≠ (holding [0x66]).data) :=
  ⟨⟨_, rfl, by decide⟩, ⟨_, rfl, by decide⟩, ⟨_, rfl, by decide⟩⟩

theorem test_witness_PendingCommandCompletes :
    (pending 7 [rd .status]).Inv ∧ (pending 7 [rd .status]).busy = true ∧
      ∀ e ∈ (pending 7 [rd .status]).events, e.Admitted (pending 7 [rd .status]).cfg := by
  refine ⟨pending_inv _, rfl, fun e h => ?_⟩
  have h : e ∈ [rd .status] := h
  rw [List.mem_singleton] at h
  subst h
  exact (by decide : (Access.read .word 0x04).WellFormed)

theorem test_witness_LoadPlacesTheMessage :
    let msg : List Byte := List.replicate 4096 0x41
    let s := idleAt 9 (loadOf msg ++ [.engine])
    s.cfg.bufBytes ≤ 2 ^ 31 ∧ s.busy = false ∧ msg.length ≤ s.cfg.bufBytes ∧ s.events = loadOf msg ++ [.engine] :=
  ⟨by decide, rfl, by rw [List.length_replicate]; decide, rfl⟩

theorem test_witness_UnloadReturnsTheMessage :
    let s : State := { withLen 4096 with events := unloadOf (withLen 4096).len.toNat ++ [Event.engine] }
    s.cfg.bufBytes ≤ 2 ^ 31 ∧ s.busy = false ∧ s.len.toNat ≤ s.cfg.bufBytes ∧
      s.events = unloadOf s.len.toNat ++ [Event.engine] :=
  ⟨(by decide : State.reset.cfg.bufBytes ≤ 2 ^ 31), rfl,
    (by decide : (withLen 4096).len.toNat ≤ (withLen 4096).cfg.bufBytes), rfl⟩

end Sys2Proof.Tests
end

section
/-! The status block of the register interface (10_state.md R22 to R24, R29): the words `CTRL` and `STATUS` by their
bits, how each event moves `BUSY`, `DONE` and `ERR`, and the two obligations about them. -/

namespace Sys2Proof.Machine

/-! ## The words of CTRL and STATUS -/

@[simp] theorem flagWord_getLsbD (b : Bool) (k : Nat) : (flagWord b).getLsbD k = (decide (k = 0) && b) := by
  cases k <;> cases b <;> simp [flagWord]

theorem State.ctrlWord_getLsbD (s : State) (k : Nat) : s.ctrlWord.getLsbD k = (decide (k = 0) && s.ie) :=
  flagWord_getLsbD s.ie k

/-- A flag shifted to position `n` of a register word stands at bit `n` and nowhere else. -/
theorem flagWord_shiftLeft_getLsbD (b : Bool) {n : Nat} (hn : n < 32) (k : Nat) :
    (flagWord b <<< n).getLsbD k = (decide (k = n) && b) := by
  rw [BitVec.getLsbD_shiftLeft, flagWord_getLsbD, ← Bool.and_assoc]
  congr 1
  rw [Bool.eq_iff_iff]
  simp only [Bool.and_eq_true, Bool.not_eq_true', decide_eq_true_eq, decide_eq_false_iff_not]
  omega

/-- The field `ERR` shifted to its position stands from bit 8 on. -/
theorem errField_shiftLeft_getLsbD (e : ErrCode) (k : Nat) :
    ((errField e).setWidth 32 <<< 8).getLsbD k = (decide (8 ≤ k) && (errField e).getLsbD (k - 8)) := by
  rw [BitVec.getLsbD_shiftLeft, BitVec.getLsbD_setWidth]
  cases he : (errField e).getLsbD (k - 8) with
  | false => simp only [Bool.and_false]
  | true =>
    have hlt : k - 8 < 3 := BitVec.lt_of_getLsbD he
    rw [Bool.eq_iff_iff]
    simp only [Bool.and_eq_true, Bool.not_eq_true', decide_eq_true_eq, decide_eq_false_iff_not, and_true]
    omega

/-- `STATUS` bit by bit (10_state.md R23). -/
theorem State.statusWord_getLsbD (s : State) (k : Nat) :
    s.statusWord.getLsbD k =
      (decide (8 ≤ k) && (errField s.err).getLsbD (k - 8) || decide (k = 2) && s.av || decide (k = 1) && s.done ||
        decide (k = 0) && s.busy) := by
  rw [State.statusWord, BitVec.getLsbD_or, BitVec.getLsbD_or, BitVec.getLsbD_or, errField_shiftLeft_getLsbD,
    flagWord_shiftLeft_getLsbD _ (by decide), flagWord_shiftLeft_getLsbD _ (by decide), flagWord_getLsbD]

/-- The reserved bits of `STATUS`, 7:3 and 31:11, read as 0 (10_state.md R23). -/
theorem State.statusWord_reserved (s : State) {k : Nat} (hk : (3 ≤ k ∧ k ≤ 7) ∨ 11 ≤ k) :
    s.statusWord.getLsbD k = false := by
  have herr : (decide (8 ≤ k) && (errField s.err).getLsbD (k - 8)) = false := by
    rcases hk with hk | hk
    · rw [decide_eq_false (by omega), Bool.false_and]
    · rw [BitVec.getLsbD_of_ge _ _ (by omega), Bool.and_false]
  rw [s.statusWord_getLsbD, herr, decide_eq_false (by omega : k ≠ 2), decide_eq_false (by omega : k ≠ 1),
    decide_eq_false (by omega : k ≠ 0)]
  rfl

/-- The value of `STATUS` by its fields (10_state.md R23). -/
theorem State.statusWord_toNat (s : State) :
    s.statusWord.toNat = 256 * (errField s.err).toNat + 4 * s.av.toNat + 2 * s.done.toNat + s.busy.toNat := by
  unfold State.statusWord
  cases s.err <;> cases s.av <;> cases s.done <;> cases s.busy <;> rfl

theorem errField_toNat_le (e : ErrCode) : (errField e).toNat ≤ 4 := by cases e <;> decide

/-- Bits 10:8 of `STATUS` hold `ERR` (10_state.md R23). -/
theorem State.statusWord_err (s : State) : s.statusWord.toNat / 256 % 8 = (errField s.err).toNat := by
  have he := errField_toNat_le s.err
  have ha := s.av.toNat_le
  have hd := s.done.toNat_le
  have hb := s.busy.toNat_le
  rw [s.statusWord_toNat]
  omega

theorem State.writeCtrl_congr (s : State) {v w : Word} (h : v.getLsbD 0 = w.getLsbD 0) :
    s.writeCtrl v = s.writeCtrl w := by
  simp only [State.writeCtrl, h]

theorem State.writeStatus_congr (s : State) {v w : Word} (h1 : v.getLsbD 1 = w.getLsbD 1)
    (h2 : v.getLsbD 2 = w.getLsbD 2) : s.writeStatus v = s.writeStatus w := by
  simp only [State.writeStatus, h1, h2]

/-! ## Reserved offsets -/

/-- A read of a reserved offset takes its event, and the host gets 0 (10_state.md R29). -/
theorem step_read_reserved {s : State} {off : Nat} {rest : List Event} (hoff : InAperture off) (hr : 0x18 ≤ off)
    (h : s.events = .access (.read .word off) :: rest) :
    step s = .next { s with events := rest, results := 0 :: s.results } := by
  rw [step_read hoff h, State.hostRead_reserved _ hr]
  rfl

/-- A write of a reserved offset takes its event and nothing else (10_state.md R29). -/
theorem step_write_reserved {s : State} {off : Nat} {v : Word} {rest : List Event} (hoff : InAperture off)
    (hr : 0x18 ≤ off) (h : s.events = .access (.write .word off v) :: rest) :
    step s = .next { s with events := rest } := by
  rw [step_write hoff h, State.hostWrite_reserved _ _ hr]

/-! ## What moves BUSY, DONE and ERR -/

/-- The state after a host read differs from the one before at most by `AV` and `DPTR` (20_memory.md R62, R65). -/
theorem State.hostRead_cases (off : Nat) (s : State) :
    (s.hostRead off).2 = s ∨ (s.hostRead off).2 = s.setAv ∨ (s.hostRead off).2 = s.setAv.advanceDptr ∨
      (s.hostRead off).2 = s.advanceDptr := by
  unfold State.hostRead
  cases regAt off with
  | none => exact .inl rfl
  | some r =>
    cases r with
    | ddata => rcases s.readPort_cases with ⟨-, h⟩ | ⟨-, -, h⟩ | ⟨-, -, h⟩ <;> simp [h]
    | _ => exact .inl rfl

/-- A host read leaves `BUSY`, `DONE` and `ERR` as they are. -/
theorem State.hostRead_status_frame (off : Nat) (s : State) :
    (s.hostRead off).2.busy = s.busy ∧ (s.hostRead off).2.done = s.done ∧ (s.hostRead off).2.err = s.err := by
  rcases s.hostRead_cases off with h | h | h | h <;> simp [h]

/-- A host write keeps `BUSY` and `ERR` and at most clears `DONE`, or it issues: a legal command is accepted, an illegal
one fails at once (20_memory.md R63; 43_pipeline.md R180). -/
theorem State.hostWrite_status_cases (off : Nat) (v : Word) (s : State) :
    ((s.hostWrite off v).busy = s.busy ∧ (s.hostWrite off v).err = s.err ∧
        (s.done = false → (s.hostWrite off v).done = false)) ∨
      (∃ op, s.hostWrite off v = s.acceptCommand op) ∨ s.hostWrite off v = s.raiseError .illegalCommand := by
  unfold State.hostWrite
  cases regAt off with
  | none => simp
  | some r =>
    cases r with
    | ctrl => simp
    | status => simp +contextual
    | cmd =>
      rcases s.issue_cases v with ⟨-, h⟩ | ⟨-, i, -, h⟩ | ⟨-, e, -, h⟩
      · simp [h]
      · exact .inr (.inl ⟨_, h⟩)
      · exact .inr (.inr h)
    | len => left; simp only [State.writeLen]; split <;> simp
    | dptr => left; simp only [State.writeDptr]; split <;> simp
    | ddata => rcases s.writePort_cases v with ⟨-, h⟩ | ⟨-, -, h⟩ | ⟨-, -, h⟩ <;> simp [h]

/-- Every command ends idle (43_pipeline.md R181; 60_exceptions.md R203). -/
theorem exec_busy {i : Instr} {s t : State} (h : exec i s = .next t) : t.busy = false := by
  rw [exec_eq] at h
  cases h
  split
  · rfl
  · exact (State.finish_frame _ s).1

/-! ## BUSY implies DONE and ERR clear -/

/-- While a command is pending no outcome is reported (10_state.md R24). -/
def State.BusyClear (s : State) : Prop := s.busy = true → s.done = false ∧ s.err = .none

theorem State.BusyClear.of_idle {s : State} (h : s.busy = false) : s.BusyClear := fun hb => by simp [h] at hb

/-- What keeps `BUSY` and `ERR` and never sets `DONE` keeps the property. -/
theorem State.BusyClear.of_status {s t : State} (hs : s.BusyClear) (hb : t.busy = s.busy) (he : t.err = s.err)
    (hd : s.done = false → t.done = false) : t.BusyClear := fun h => by
  obtain ⟨hdone, herr⟩ := hs (hb ▸ h)
  exact ⟨hd hdone, he.trans herr⟩

theorem State.BusyClear.hostRead {s : State} (hs : s.BusyClear) (off : Nat) :
    (State.record (s.hostRead off)).BusyClear := by
  obtain ⟨hb, hd, he⟩ := s.hostRead_status_frame off
  exact hs.of_status hb he hd.trans

theorem State.BusyClear.hostWrite {s : State} (hs : s.BusyClear) (off : Nat) (v : Word) :
    (s.hostWrite off v).BusyClear := by
  rcases s.hostWrite_status_cases off v with ⟨hb, he, hd⟩ | ⟨op, h⟩ | h
  · exact hs.of_status hb he hd
  · rw [h]
    exact fun _ => ⟨rfl, rfl⟩
  · rw [h]
    exact .of_idle rfl

theorem State.BusyClear.engineTurn {s t : State} (hs : s.BusyClear) (h : engineTurn s = .next t) : t.BusyClear := by
  rcases engineTurn_cases h with ⟨-, ho⟩ | ⟨-, i, -, ho⟩ | ⟨-, -, ho⟩
  · cases ho
    exact hs
  · exact .of_idle (exec_busy ho.symm)
  · cases ho

/-- Every step keeps the property, whatever event it performs. -/
theorem State.BusyClear.step {s t : State} (hs : s.BusyClear) (h : step s = .next t) : t.BusyClear := by
  have hrest (rest : List Event) : State.BusyClear { s with events := rest } := hs
  rcases step_cases h with ⟨-, he⟩ | ⟨rest, -, he⟩ | ⟨rest, -, rfl⟩ | ⟨e, w, off, rest, -, -, -, rfl⟩ |
    ⟨e, w, off, v, rest, -, -, -, rfl⟩
  · exact hs.engineTurn he
  · exact (hrest rest).engineTurn he
  · exact .of_idle rfl
  · exact (hrest rest).hostRead off
  · exact (hrest rest).hostWrite off v

/-! ## The obligations -/

/-- Settles O53: the bound is the encoding of `ErrCode`, and `State.BusyClear` is inductive by the cases of a step. -/
theorem busyImpliesDoneAndErrClear : Obligations.BusyImpliesDoneAndErrClear := by
  refine ⟨fun s => ?_, fun c => ⟨rfl, rfl, rfl⟩, fun s t hs h => State.BusyClear.step hs h⟩
  rw [s.statusWord_err]
  exact errField_toNat_le s.err

/-- Settles O42: a reserved offset selects no register, and the bits of both words stand in one lemma each. -/
theorem reservedReadsZeroIgnoresWrites : Obligations.ReservedReadsZeroIgnoresWrites := by
  refine ⟨fun s off rest hoff hr => ⟨step_read_reserved hoff hr, fun v => step_write_reserved hoff hr⟩,
    fun s k hk => ?_, fun s k hk => s.statusWord_reserved hk, fun s v w => s.writeCtrl_congr,
    fun s v w => s.writeStatus_congr⟩
  rw [s.ctrlWord_getLsbD, decide_eq_false (by omega), Bool.false_and]

end Sys2Proof.Machine
end

section
/-! The host's accesses (20_memory.md R62 to R67): the values of the register reads, each register write and each branch
of the data port by a lemma of its own, and the five obligations about them. -/

namespace Sys2Proof.Machine

/-! ## The values reads return -/

theorem flagWord_eq_ite (b : Bool) : flagWord b = if b then 1 else 0 := by cases b <;> rfl

/-- `STATUS` as one number made of its fields (10_state.md R23). -/
theorem State.statusWord_eq_ofNat (s : State) :
    s.statusWord =
      BitVec.ofNat 32 ((errField s.err).toNat * 256 + s.av.toNat * 4 + s.done.toNat * 2 + s.busy.toNat) := by
  apply BitVec.eq_of_toNat_eq
  have he := errField_toNat_le s.err
  have ha := s.av.toNat_le
  have hd := s.done.toNat_le
  have hb := s.busy.toNat_le
  rw [s.statusWord_toNat, BitVec.toNat_ofNat]
  omega

/-- A read that changes nothing takes its event, and the host gets its value. -/
theorem step_read_value {s : State} {off : Nat} {w : Word} {rest : List Event} (hoff : InAperture off)
    (h : s.events = .access (.read .word off) :: rest)
    (hr : State.hostRead off { s with events := rest } = (w, { s with events := rest })) :
    step s = .next { s with events := rest, results := w :: s.results } := by
  rw [step_read hoff h, hr]
  rfl

/-! ## Register writes -/

theorem State.writeStatus_eq_ite (v : Word) (s : State) :
    s.writeStatus v = { s with
      done := if v.getLsbD 1 then false else s.done
      av := if v.getLsbD 2 then false else s.av } := by
  simp [State.writeStatus, Bool.and_comm]

theorem State.writeLen_idle (v : Word) {s : State} (hb : s.busy = false) : s.writeLen v = { s with len := v } := by
  simp [State.writeLen, hb]

theorem State.writeDptr_idle (v : Word) {s : State} (hb : s.busy = false) : s.writeDptr v = { s with dptr := v } := by
  simp [State.writeDptr, hb]

/-- While busy, a write of `CMD`, `LEN` or `DPTR` is an access violation and nothing else (20_memory.md R63). -/
theorem State.hostWrite_busy {off : Nat} (v : Word) {s : State} (hoff : off = 0x08 ∨ off = 0x0C ∨ off = 0x10)
    (hb : s.busy = true) : s.hostWrite off v = s.setAv := by
  rcases hoff with rfl | rfl | rfl
  · simp [State.issue, hb]
  · simp [State.writeLen, hb]
  · simp [State.writeDptr, hb]

/-! ## The data port -/

theorem State.readPort_busy {s : State} (hb : s.busy = true) : s.readPort = (0, s.setAv) := by
  simp [State.readPort, hb]

theorem State.readPort_outOfRange {s : State} (hb : s.busy = false) (hd : s.cfg.bufBytes ≤ s.dptr.toNat) :
    s.readPort = (0, s.setAv.advanceDptr) := by
  simp [State.readPort, hb, hd]

theorem State.readPort_inRange {s : State} (hb : s.busy = false) (hd : s.dptr.toNat < s.cfg.bufBytes) :
    s.readPort = ((s.memRead s.dptr.toNat).setWidth 32, s.advanceDptr) := by
  simp [State.readPort, hb, hd]

theorem State.writePort_busy (v : Word) {s : State} (hb : s.busy = true) : s.writePort v = s.setAv := by
  simp [State.writePort, hb]

theorem State.writePort_outOfRange (v : Word) {s : State} (hb : s.busy = false)
    (hd : s.cfg.bufBytes ≤ s.dptr.toNat) : s.writePort v = s.setAv.advanceDptr := by
  simp [State.writePort, hb, hd]

theorem State.writePort_inRange (v : Word) {s : State} (hb : s.busy = false) (hd : s.dptr.toNat < s.cfg.bufBytes) :
    s.writePort v = (s.memWrite s.dptr.toNat (v.setWidth 8)).advanceDptr := by
  simp [State.writePort, hb, hd]

@[simp] theorem State.advanceDptr_memRead (s : State) (i : Nat) : s.advanceDptr.memRead i = s.memRead i := rfl

/-- Bits 7:0 of a word as a byte (20_memory.md R66). -/
theorem setWidth_eight_eq_ofNat (v : Word) : v.setWidth 8 = BitVec.ofNat 8 (v.toNat % 256) :=
  BitVec.eq_of_toNat_eq (by simp)

theorem step_read_ddata {s : State} {rest : List Event} (h : s.events = .access (.read .word 0x14) :: rest) :
    step s = .next (State.record (State.readPort { s with events := rest })) :=
  step_read (by decide) h

theorem step_write_ddata {s : State} {v : Word} {rest : List Event}
    (h : s.events = .access (.write .word 0x14 v) :: rest) :
    step s = .next (State.writePort v { s with events := rest }) :=
  step_write (by decide) h

/-- An idle access to `DDATA` out of range, read or write, sets `AV`, advances `DPTR` and leaves `DATA`
(20_memory.md R65, R66). -/
theorem step_ddata_outOfRange {s : State} {a : Access} {rest : List Event} (hb : s.busy = false)
    (hd : s.cfg.bufBytes ≤ s.dptr.toNat) (ha : a = .read .word 0x14 ∨ ∃ v, a = .write .word 0x14 v)
    (h : s.events = .access a :: rest) :
    ∃ t, step s = .next t ∧ t.dptr = s.dptr + 1 ∧ t.av = true ∧ t.data = s.data := by
  rcases ha with rfl | ⟨v, rfl⟩
  · rw [step_read_ddata h, State.readPort_outOfRange (s := { s with events := rest }) hb hd]
    exact ⟨_, rfl, rfl, rfl, rfl⟩
  · rw [step_write_ddata h, State.writePort_outOfRange v (s := { s with events := rest }) hb hd]
    exact ⟨_, rfl, rfl, rfl, rfl⟩

/-- With valid parameters the last value of `DPTR` lies out of range (00_scope.md R7; 20_memory.md R67). -/
theorem bufBytes_le_of_dptr_last {s : State} (hv : s.cfg.Valid) (hd : s.dptr = 0xFFFFFFFF) :
    s.cfg.bufBytes ≤ s.dptr.toNat := by
  obtain ⟨-, -, -, -, -, hmax⟩ := hv
  have hlast : s.dptr.toNat = 2 ^ 32 - 1 := by rw [hd]; rfl
  omega

/-! ## The obligations -/

/-- Settles O36: each offset by its register; a reserved offset selects none. -/
theorem hostReadReturns : Obligations.HostReadReturns := by
  intro s off rest hoff h
  refine ⟨?ctrl, ?status, ?cmd, ?len, ?dptr, ?ddata, fun hr => step_read_reserved hoff hr h⟩
  case ctrl =>
    rintro rfl
    rw [← flagWord_eq_ite]
    exact step_read_value hoff h (State.hostRead_ctrl _)
  case status =>
    rintro rfl
    rw [step_read_value hoff h (State.hostRead_status _), State.statusWord_eq_ofNat]
    cases s.err <;> rfl
  case cmd => rintro rfl; exact step_read_value hoff h (State.hostRead_cmd _)
  case len => rintro rfl; exact step_read_value hoff h (State.hostRead_len _)
  case dptr => rintro rfl; exact step_read_value hoff h (State.hostRead_dptr _)
  case ddata => rintro rfl; exact step_read_ddata h

/-- Settles O37: the three branches of the port. -/
theorem dataPortRead : Obligations.DataPortRead := by
  intro s rest h
  rw [step_read_ddata h]
  refine ⟨fun hb => ?_, fun hb hd => ?_, fun hb hd => ?_⟩
  · rw [State.readPort_busy (s := { s with events := rest }) hb]; rfl
  · rw [State.readPort_outOfRange (s := { s with events := rest }) hb hd]; rfl
  · rw [State.readPort_inRange (s := { s with events := rest }) hb hd]; rfl

/-- Settles O38: each offset by its register, in both columns of the table. -/
theorem hostWriteDoes : Obligations.HostWriteDoes := by
  intro s off v rest hoff h
  refine ⟨?ctrl, ?status, ?cmd, ?len, ?dptr, ?busy, ?ddata, fun hr => step_write_reserved hoff hr h⟩
  all_goals rw [step_write hoff h]
  case ctrl => rintro rfl; rfl
  case status => rintro rfl; rw [State.hostWrite_status, State.writeStatus_eq_ite]
  case cmd => rintro rfl -; rw [State.hostWrite_cmd]
  case len => rintro rfl hb; rw [State.hostWrite_len, State.writeLen_idle v (s := { s with events := rest }) hb]
  case dptr => rintro rfl hb; rw [State.hostWrite_dptr, State.writeDptr_idle v (s := { s with events := rest }) hb]
  case busy => intro ho hb; rw [State.hostWrite_busy v (s := { s with events := rest }) ho hb]; rfl
  case ddata => rintro rfl; rw [State.hostWrite_ddata]

/-- Settles O39: the three branches of the port; in the last, a byte of `DATA` after a write of one byte. -/
theorem dataPortWrite : Obligations.DataPortWrite := by
  intro s v rest h
  rw [step_write_ddata h]
  refine ⟨fun hb => ?_, fun hb hd => ?_, fun hb hd => ?_⟩
  · rw [State.writePort_busy v (s := { s with events := rest }) hb]; rfl
  · rw [State.writePort_outOfRange v (s := { s with events := rest }) hb hd]; rfl
  · rw [State.writePort_inRange v (s := { s with events := rest }) hb hd]
    refine ⟨_, rfl, ?_, fun i hi => ?_, rfl⟩
    · rw [State.advanceDptr_memRead, State.memRead_memWrite_same, setWidth_eight_eq_ofNat]
    · rw [State.advanceDptr_memRead, State.memRead_memWrite_other _ hi]
      rfl

/-- Settles O40: the last index lies out of range, and its successor is 0. -/
theorem dataPointerWraps : Obligations.DataPointerWraps := by
  intro s a rest hv hb hd ha h
  obtain ⟨t, ht, hdptr, hav, hdata⟩ := step_ddata_outOfRange hb (bufBytes_le_of_dptr_last hv hd) ha h
  exact ⟨t, ht, by rw [hdptr, hd]; rfl, hav, hdata⟩

end Sys2Proof.Machine
end

section
/-! The decoder by the fields of a command word (30_encoding.md R90, R93, R95): a word decodes to a command
exactly when it is the command's full word, and is illegal exactly when it is 8 or more. -/

namespace Sys2Proof

theorem opcField_toNat (v : Word) : (opcField v).toNat = v.toNat % 2 ^ 8 := by simp [opcField]

theorem rsvdField_toNat (v : Word) : (rsvdField v).toNat = v.toNat / 2 ^ 8 := by
  have hv := v.isLt
  simp only [rsvdField, BitVec.extractLsb'_toNat, Nat.shiftRight_eq_div_pow]
  omega

theorem rsvdField_eq_zero_iff (v : Word) : rsvdField v = 0 ↔ v.toNat < 2 ^ 8 := by
  rw [← BitVec.toNat_inj, rsvdField_toNat]
  simp [Nat.div_eq_zero_iff]

theorem decode_encode : ∀ i : Instr, decode (encode i) = .ok i
  | .nop => Laws.DecodeEncode.nop.2
  | .mask => Laws.DecodeEncode.mask.2
  | .denc => Laws.DecodeEncode.denc.2
  | .ddec => Laws.DecodeEncode.ddec.2
  | .b64e => Laws.DecodeEncode.b64e.2
  | .b64d => Laws.DecodeEncode.b64d.2
  | .penc => Laws.DecodeEncode.penc.2
  | .pdec => Laws.DecodeEncode.pdec.2

/-- A word below 8 is the full word of a command: the table of R92 has no gap. -/
theorem exists_encode_eq {v : Word} (h : v.toNat < 8) : ∃ i, encode i = v := by
  have table : ∀ n < 8,
      ∃ i ∈ [Instr.nop, .mask, .denc, .ddec, .b64e, .b64d, .penc, .pdec], (encode i).toNat = n := by decide
  obtain ⟨i, -, hi⟩ := table v.toNat h
  exact ⟨i, BitVec.eq_of_toNat_eq hi⟩

/-- R93's first cause: a bit above the opcode is set. -/
theorem decode_of_rsvdField_ne_zero {v : Word} (h : rsvdField v ≠ 0) : decode v = .error .reservedNotZero := if_pos h

/-- R93's second cause: the opcode lies outside the table. -/
theorem decode_of_opcField_ge {v : Word} (hr : rsvdField v = 0) (ho : 8 ≤ (opcField v).toNat) :
    decode v = .error .opcodeUnassigned := by
  unfold decode
  rw [if_neg (not_not.mpr hr)]
  split
  case h_9 => rfl
  all_goals omega

/-- Every word of 8 or more is illegal, for one cause or the other. -/
theorem exists_decode_eq_error {v : Word} (h : 8 ≤ v.toNat) : ∃ e, decode v = .error e := by
  by_cases hr : rsvdField v = 0
  · have hlt := (rsvdField_eq_zero_iff v).mp hr
    have ho : 8 ≤ (opcField v).toNat := by rwa [opcField_toNat, Nat.mod_eq_of_lt hlt]
    exact ⟨_, decode_of_opcField_ge hr ho⟩
  · exact ⟨_, decode_of_rsvdField_ne_zero hr⟩

theorem decode_eq_error_iff (v : Word) : (∃ e, decode v = .error e) ↔ 8 ≤ v.toNat := by
  refine ⟨fun ⟨e, he⟩ => ?_, exists_decode_eq_error⟩
  by_contra hlt
  obtain ⟨i, rfl⟩ := exists_encode_eq (not_le.mp hlt)
  rw [decode_encode] at he
  cases he

theorem decode_eq_ok_iff (v : Word) (i : Instr) : decode v = .ok i ↔ v = encode i := by
  refine ⟨fun h => ?_, fun h => h ▸ decode_encode i⟩
  rcases lt_or_ge v.toNat 8 with hlt | hge
  · obtain ⟨j, rfl⟩ := exists_encode_eq hlt
    rw [decode_encode] at h
    cases h
    rfl
  · obtain ⟨e, he⟩ := exists_decode_eq_error hge
    rw [he] at h
    cases h

/-- Settles O1: the eight words are the commands' full words, and the illegal words are those of 8 or more. -/
theorem decodeReadsExactlyTheEightWords : Obligations.DecodeReadsExactlyTheEightWords := by
  intro v
  refine ⟨fun i => ?_, ?_⟩
  · rw [decode_eq_ok_iff]
    cases i <;> simp [encode, opcode]
  · rw [decode_eq_error_iff]
    omega

end Sys2Proof
end

section
/-! MaskTransform and the command MASK (40_mask.md R110 to R115): what `maskApply` does to a byte inside and outside the
interior, what the command does with a message that fits, and the three obligations that rest on these rules. -/

namespace Sys2Proof.Machine

/-! ## The interior -/

theorem specInterior_iff (L i : Nat) : specInterior L i ↔ leadPad L ≤ i ∧ i < L - trailPad L :=
  and_congr_right' Nat.lt_sub_iff_add_lt.symm

/-- A message shorter than its two pads has no interior (40_mask.md R112). -/
theorem not_specInterior_of_short {L : Nat} (h : L < leadPad L + trailPad L) (i : Nat) : ¬ specInterior L i := by
  rw [specInterior_iff]
  omega

theorem trailPad_eq (L : Nat) : trailPad L = if L % 4 = 0 then 0 else 4 - L % 4 := ite_not ..

/-- The length of the interior (40_mask.md R115). -/
theorem interior_length (L : Nat) :
    L - trailPad L - leadPad L = if L % 4 = 0 then L else if 4 ≤ L then L - 4 else 0 := by
  rw [trailPad_eq, leadPad]
  split_ifs <;> omega

/-- The indices below `n` that lie in `[a, b)`, counted. -/
theorem length_filter_range_interval (a b n : Nat) :
    ((List.range n).filter fun i => decide (a ≤ i ∧ i < b)).length = min n b - a := by
  induction n with
  | zero => simp
  | succ n ih =>
    rw [List.range_succ, List.filter_append, List.length_append, ih, List.filter_singleton]
    by_cases h : a ≤ n ∧ n < b
    · rw [decide_eq_true h]
      simp only [cond_true, List.length_singleton]
      omega
    · rw [decide_eq_false h]
      simp only [cond_false, List.length_nil]
      omega

/-! ## MaskApply, byte by byte -/

theorem maskByte_eq_specMaskByte (m : Word) (j : Nat) : maskByte m j = specMaskByte m j :=
  BitVec.setWidth_ushiftRight_eq_extractLsb.symm

/-- Byte `k` of a tail masked from index `i` on is the byte at index `i + k` of the message. -/
theorem maskFrom_getElem? (m : Word) (lead stop i : Nat) (s : List Byte) (k : Nat) :
    (maskFrom m lead stop i s)[k]? = s[k]?.map fun b =>
      if lead ≤ i + k ∧ i + k < stop then b ^^^ maskByte m ((i + k - lead) % 4) else b := by
  induction s generalizing i k with
  | nil => rfl
  | cons b s ih =>
    cases k with
    | zero => rfl
    | succ k => simp only [maskFrom, List.getElem?_cons_succ, ih, Nat.add_right_comm i 1 k, Nat.add_assoc i k 1]

/-- The short case of `maskApply` is no exception: its loop would mask no byte of a message without an interior. -/
theorem maskApply_getElem? (m : Word) (s : List Byte) (i : Nat) :
    (maskApply m s)[i]? = s[i]?.map fun b =>
      if specInterior s.length i then b ^^^ specMaskByte m ((i - leadPad s.length) % 4) else b := by
  unfold maskApply
  split
  case isTrue hshort => simp only [if_neg (not_specInterior_of_short hshort i), Option.map_id']
  case isFalse => simp only [maskFrom_getElem?, Nat.zero_add, specInterior_iff, maskByte_eq_specMaskByte]

theorem maskApply_getElem?_interior (m : Word) {s : List Byte} {i : Nat} (h : specInterior s.length i) :
    (maskApply m s)[i]? = s[i]?.map (· ^^^ specMaskByte m ((i - leadPad s.length) % 4)) := by
  simp only [maskApply_getElem?, if_pos h]

theorem maskApply_getElem?_outside (m : Word) {s : List Byte} {i : Nat} (h : ¬ specInterior s.length i) :
    (maskApply m s)[i]? = s[i]? := by
  simp only [maskApply_getElem?, if_neg h, Option.map_id']

theorem maskApply_of_short (m : Word) {s : List Byte} (h : s.length < leadPad s.length + trailPad s.length) :
    maskApply m s = s :=
  if_pos h

/-- `MaskApply` is self-inverse: both runs see one interior, since the length is kept, and `(x xor m) xor m = x`
(40_mask.md R114). -/
theorem maskApply_maskApply (m : Word) (s : List Byte) : maskApply m (maskApply m s) = s := by
  apply List.ext_getElem?
  intro i
  have hlen : (maskApply m s).length = s.length := maskApply_length m s
  by_cases h : specInterior s.length i
  · rw [maskApply_getElem?_interior m (hlen ▸ h), maskApply_getElem?_interior m h, hlen, Option.map_map]
    simp only [Function.comp_def, xor_cancel_right, Option.map_id']
  · rw [maskApply_getElem?_outside m (hlen ▸ h), maskApply_getElem?_outside m h]

/-- A mask without a zero byte changes a message exactly in its interior. -/
theorem maskApply_getElem?_ne_iff {m : Word} (hm : ∀ j, j < 4 → specMaskByte m j ≠ 0) (s : List Byte) (i : Nat) :
    (maskApply m s)[i]? ≠ s[i]? ↔ specInterior s.length i := by
  by_cases h : specInterior s.length i
  · have hi : i < s.length := by omega
    have hbyte := hm ((i - leadPad s.length) % 4) (Nat.mod_lt _ (by decide))
    rw [maskApply_getElem?_interior m h, List.getElem?_eq_getElem hi]
    exact iff_of_true (by simpa using hbyte) h
  · exact iff_of_false (not_not.mpr (maskApply_getElem?_outside m h)) h

/-! ## The command MASK -/

theorem exec_mask_of_fits {s : State} (h : s.len.toNat ≤ s.cfg.bufBytes) :
    exec .mask s = .next (s.complete (maskApply s.cfg.mask s.message)) := by
  show Host.Outcome.next (s.finish (maskResult s)) = _
  rw [maskResult, State.onMessage_fits h, State.finish_ok]

/-- An output as long as the message leaves `LEN` as it is. -/
theorem State.complete_len_of_length_eq {s : State} {out : List Byte} (h : out.length = s.len.toNat) :
    (s.complete out).len = s.len := by
  rw [State.complete_len, h, BitVec.ofNat_toNat, BitVec.setWidth_eq]

/-- Completing with the old message undoes a completion with an output of the same length. -/
theorem State.memRead_complete_message {s : State} {out : List Byte} (h : out.length = s.len.toNat) (i : Nat) :
    ((s.complete out).complete s.message).memRead i = s.memRead i := by
  rw [State.memRead_complete, State.memRead_complete]
  by_cases hi : i < s.len.toNat
  · simp [State.message, hi]
  · simp [h, hi]

/-! ## The obligations -/

/-- Settles O8: a byte of the interior and a byte outside it. -/
theorem maskApplyByteFormula : Obligations.MaskApplyByteFormula := by
  refine fun m s => ⟨maskApply_length m s, maskApply_of_short m, fun i hi => ?_⟩
  rw [maskApply_getElem?, List.getElem?_eq_getElem hi]
  simp only [Option.map_some, specMasked, List.getD_eq_getElem s 0 hi, leadPad]

/-- Settles O10: the second MASK finds the masked message, of the same length, and completes with the old one. -/
theorem maskTwiceRestores : Obligations.MaskTwiceRestores := by
  refine ⟨maskApply_maskApply, fun s hs => ?_⟩
  have hlen : (maskApply s.cfg.mask s.message).length = s.len.toNat := by simp
  have htlen : (s.complete (maskApply s.cfg.mask s.message)).len = s.len := State.complete_len_of_length_eq hlen
  have hu : exec .mask (s.complete (maskApply s.cfg.mask s.message)) =
      .next ((s.complete (maskApply s.cfg.mask s.message)).complete s.message) := by
    rw [exec_mask_of_fits (by rwa [htlen]), State.message_complete s _ (hlen ▸ s.len.isLt), State.complete_cfg,
      maskApply_maskApply]
  exact ⟨_, _, exec_mask_of_fits hs, hu,
    (State.complete_len_of_length_eq (by rw [htlen, State.message_length])).trans htlen, rfl,
    State.memRead_complete_message hlen⟩

/-- Settles O11: the changed indices are the interior, an interval whose length `interior_length` gives; the last clause
takes `L = 4 + r`. -/
theorem interiorLength : Obligations.InteriorLength := by
  refine ⟨fun L => ⟨rfl, trailPad_eq L⟩, fun m s hm => ⟨fun i => ?changed, ?count⟩, fun m s i hlo hhi => ?byte,
    fun r hr => ⟨4 + r, by omega, ?stop⟩⟩
  case changed => rw [maskApply_getElem?_ne_iff hm, specInterior_iff]
  case count =>
    simp only [maskApply_getElem?_ne_iff hm, specInterior_iff]
    rw [length_filter_range_interval, min_eq_right (Nat.sub_le ..), interior_length]
  case byte =>
    have hi : i < s.length := by omega
    rw [maskApply_getElem?_interior m ((specInterior_iff ..).mpr ⟨hlo, hhi⟩), List.getElem?_eq_getElem hi,
      List.getD_eq_getElem s 0 hi, Option.map_some]
  case stop =>
    rw [interior_length]
    split_ifs <;> omega

end Sys2Proof.Machine
end

section
/-! DiffusionCipher and the commands DENC and DDEC (41_diffusion.md R130 to R139): the recursions, the scans with the
accumulator of the keys so far, that each direction undoes the other, and the three obligations that rest on these
rules. -/

namespace Sys2Proof.Machine

/-! ## XOR of a whole sequence with a key -/

@[simp] theorem xorAll_zero (t : List Byte) : xorAll 0 t = t := by simp [xorAll]

theorem xorAll_xorAll (a b : Byte) (t : List Byte) : xorAll a (xorAll b t) = xorAll (a ^^^ b) t := by
  simp [xorAll, BitVec.xor_assoc, BitVec.xor_comm b a]

@[simp] theorem xorAll_xorAll_same (k : Byte) (t : List Byte) : xorAll k (xorAll k t) = t := by
  rw [xorAll_xorAll, BitVec.xor_self]
  exact xorAll_zero t

theorem xorAll_getElem? (k : Byte) (t : List Byte) (j : Nat) : (xorAll k t)[j]? = t[j]?.map (· ^^^ k) :=
  List.getElem?_map ..

/-! ## The recursions -/

/-- A part of the accumulator can be taken off the ciphertext beforehand. -/
theorem diffDecFrom_xor (a b : Byte) (c : List Byte) : diffDecFrom (a ^^^ b) c = diffDecFrom b (xorAll a c) := by
  induction c generalizing b with
  | nil => rfl
  | cons x c ih =>
    show (x ^^^ (a ^^^ b)) :: diffDecFrom (a ^^^ b ^^^ key (x ^^^ (a ^^^ b))) c =
      (x ^^^ a ^^^ b) :: diffDecFrom (b ^^^ key (x ^^^ a ^^^ b)) (xorAll a c)
    rw [BitVec.xor_assoc a, ih, BitVec.xor_assoc x]

theorem diffDecFrom_eq_diffDec (a : Byte) (c : List Byte) : diffDecFrom a c = diffDec (xorAll a c) := by
  simpa [diffDec] using diffDecFrom_xor a 0 c

/-- The recursion of 41_diffusion.md R135 holds of the scan `diffDec`. -/
theorem diffDec_cons (h : Byte) (t : List Byte) : diffDec (h :: t) = h :: diffDec (xorAll (key h) t) := by
  rw [← diffDecFrom_eq_diffDec]
  simp [diffDec, diffDecFrom]

/-! ## The scans and the closed form -/

/-- One round of the encoding loop on the output so far and the accumulator (41_diffusion.md R136). -/
def encRound (ra : List Byte × Byte) (b : Byte) : List Byte × Byte := (ra.1 ++ [b ^^^ ra.2], ra.2 ^^^ key b)

/-- One round of the decoding loop: the key is that of the byte just recovered (41_diffusion.md R136). -/
def decRound (pa : List Byte × Byte) (b : Byte) : List Byte × Byte :=
  (pa.1 ++ [b ^^^ pa.2], pa.2 ^^^ key (b ^^^ pa.2))

theorem foldl_encRound (s r : List Byte) (a : Byte) :
    (s.foldl encRound (r, a)).1 = r ++ xorAll a (diffEnc s) := by
  induction s generalizing r a with
  | nil => exact (List.append_nil r).symm
  | cons h t ih =>
    calc ((h :: t).foldl encRound (r, a)).1
        = r ++ [h ^^^ a] ++ xorAll (a ^^^ key h) (diffEnc t) := ih ..
      _ = r ++ (h ^^^ a) :: xorAll a (xorAll (key h) (diffEnc t)) := by
        rw [xorAll_xorAll, List.append_assoc, List.singleton_append]

theorem foldl_decRound (c r : List Byte) (a : Byte) :
    (c.foldl decRound (r, a)).1 = r ++ diffDecFrom a c := by
  induction c generalizing r a with
  | nil => exact (List.append_nil r).symm
  | cons x c ih =>
    calc ((x :: c).foldl decRound (r, a)).1
        = r ++ [x ^^^ a] ++ diffDecFrom (a ^^^ key (x ^^^ a)) c := ih ..
      _ = r ++ diffDecFrom a (x :: c) := by rw [List.append_assoc, List.singleton_append, diffDecFrom]

@[simp] theorem keysBefore_zero (f : Nat → Byte) : keysBefore f 0 = 0 := rfl

theorem keysBefore_succ (f : Nat → Byte) (j : Nat) : keysBefore f (j + 1) = keysBefore f j ^^^ key (f j) := by
  simp [keysBefore, List.range_succ]

/-- The first key can be split off instead of the last: the order of the keys does not matter. -/
theorem keysBefore_succ_left (f : Nat → Byte) (j : Nat) :
    keysBefore f (j + 1) = keysBefore (fun i => f (i + 1)) j ^^^ key (f 0) := by
  induction j with
  | zero => exact keysBefore_succ f 0
  | succ j ih =>
    rw [keysBefore_succ, ih, keysBefore_succ, BitVec.xor_assoc, BitVec.xor_comm (key (f 0)), ← BitVec.xor_assoc]

/-- The closed form of 41_diffusion.md R136. -/
theorem diffEnc_getElem? (s : List Byte) (j : Nat) :
    (diffEnc s)[j]? = s[j]?.map (· ^^^ keysBefore (fun i => s.getD i 0) j) := by
  induction s generalizing j with
  | nil => rfl
  | cons h t ih =>
    cases j with
    | zero => simp [diffEnc]
    | succ j =>
      have hkeys : keysBefore (fun i => (h :: t).getD i 0) (j + 1) = keysBefore (fun i => t.getD i 0) j ^^^ key h :=
        keysBefore_succ_left ..
      rw [diffEnc, List.getElem?_cons_succ, xorAll_getElem?, ih, Option.map_map, List.getElem?_cons_succ, hkeys]
      simp only [Function.comp_def, BitVec.xor_assoc]

/-! ## Each direction undoes the other (41_diffusion.md R139) -/

theorem diffDec_diffEnc (s : List Byte) : diffDec (diffEnc s) = s := by
  induction s with
  | nil => rfl
  | cons h t ih => rw [diffEnc, diffDec_cons, xorAll_xorAll_same, ih]

/-- For every accumulator, so that the induction can follow the scan. -/
theorem xorAll_diffEnc_diffDecFrom (a : Byte) (c : List Byte) : xorAll a (diffEnc (diffDecFrom a c)) = c := by
  induction c generalizing a with
  | nil => rfl
  | cons x c ih =>
    calc xorAll a (diffEnc (diffDecFrom a (x :: c)))
        = (x ^^^ a ^^^ a) :: xorAll a (xorAll (key (x ^^^ a)) (diffEnc (diffDecFrom (a ^^^ key (x ^^^ a)) c))) := rfl
      _ = x :: c := by rw [xor_cancel_right, xorAll_xorAll, ih]

theorem diffEnc_diffDec (c : List Byte) : diffEnc (diffDec c) = c := by
  rw [← xorAll_zero (diffEnc _), diffDec, xorAll_diffEnc_diffDecFrom]

/-! ## The commands DENC and DDEC -/

theorem exec_denc_of_fits {s : State} (h : s.len.toNat ≤ s.cfg.bufBytes) :
    exec .denc s = .next (s.complete (diffEnc s.message)) := by
  show Host.Outcome.next (s.finish (dencResult s)) = _
  rw [dencResult, State.onMessage_fits h, State.finish_ok]

theorem exec_ddec_of_fits {s : State} (h : s.len.toNat ≤ s.cfg.bufBytes) :
    exec .ddec s = .next (s.complete (diffDec s.message)) := by
  show Host.Outcome.next (s.finish (ddecResult s)) = _
  rw [ddecResult, State.onMessage_fits h, State.finish_ok]

/-- The command `i` replaces every message that fits by its image under `f`. -/
def Transforms (i : Instr) (f : List Byte → List Byte) : Prop :=
  ∀ s : State, s.len.toNat ≤ s.cfg.bufBytes → exec i s = .next (s.complete (f s.message))

theorem denc_transforms : Transforms .denc diffEnc := fun _ => exec_denc_of_fits

theorem ddec_transforms : Transforms .ddec diffDec := fun _ => exec_ddec_of_fits

/-- Two commands whose transforms undo each other and keep the length restore a message that fits: the second finds
the output of the first, of the same length, and completes with the old message. -/
theorem Transforms.restores {i j : Instr} {f g : List Byte → List Byte} (hi : Transforms i f) (hj : Transforms j g)
    (hlen : ∀ msg, (f msg).length = msg.length) (hgf : ∀ msg, g (f msg) = msg)
    {s : State} (hs : s.len.toNat ≤ s.cfg.bufBytes) :
    ∃ t u, exec i s = .next t ∧ exec j t = .next u ∧ u.len = s.len ∧ u.err = .none ∧
      ∀ k, u.memRead k = s.memRead k := by
  have hout : (f s.message).length = s.len.toNat := (hlen _).trans s.message_length
  have htlen : (s.complete (f s.message)).len = s.len := State.complete_len_of_length_eq hout
  have hu : exec j (s.complete (f s.message)) = .next ((s.complete (f s.message)).complete s.message) := by
    rw [hj _ (by rwa [htlen]), State.message_complete s _ (hout ▸ s.len.isLt), hgf]
  exact ⟨_, _, hi s hs, hu, (State.complete_len_of_length_eq (by rw [htlen, State.message_length])).trans htlen, rfl,
    State.memRead_complete_message hout⟩

/-! ## The obligations -/

/-- Settles O13: the encoding is defined by its recursion; that of the decoding is `diffDec_cons`. Neither needs the
tail to be non-empty. -/
theorem diffusionRecursion : Obligations.DiffusionRecursion :=
  ⟨⟨rfl, fun _ => rfl, fun _ _ _ => rfl, diffEnc_length⟩,
    ⟨rfl, fun h => diffDec_cons h [], fun h t _ => diffDec_cons h t, diffDec_length⟩⟩

/-- Settles O14: both loops begin with an empty output and accumulator 0. -/
theorem diffusionScan : Obligations.DiffusionScan := by
  refine ⟨fun s => ?enc, fun c => (foldl_decRound c [] 0).symm, fun s j hj => ?closed⟩
  case enc =>
    have hloop : (s.foldl encRound ([], 0)).1 = xorAll 0 (diffEnc s) := foldl_encRound s [] 0
    exact (hloop.trans (xorAll_zero _)).symm
  case closed => rw [diffEnc_getElem?, List.getElem?_eq_getElem hj, List.getD_eq_getElem s 0 hj, Option.map_some]

/-- Settles O17: the commands inherit from their transforms that each undoes the other. -/
theorem diffusionInverse : Obligations.DiffusionInverse :=
  ⟨fun s => ⟨diffDec_diffEnc s, diffEnc_diffDec s⟩, fun _ hs =>
    ⟨denc_transforms.restores ddec_transforms diffEnc_length diffDec_diffEnc hs,
      ddec_transforms.restores denc_transforms diffDec_length diffEnc_diffDec hs⟩⟩

end Sys2Proof.Machine
end

section
/-! Base64Codec (42_base64.md R150 to R162): the letters and their reverse lookup, the 24-bit value of a chunk that both
directions go through, one chunk of encoding and of decoding, and the six obligations that rest on these rules. -/

namespace Sys2Proof.Machine

/-! ## Letters and their reverse lookup (42_base64.md R150) -/

theorem charOf_mem (c : Config) (g : Group) : charOf c g ∈ c.alphabet.toList :=
  Vector.mem_toList_iff.2 (Vector.getElem_mem ..)

theorem charOf_ne_pad {c : Config} (hc : c.Valid) (g : Group) : charOf c g ≠ c.pad := by
  obtain ⟨-, -, -, hpad, -, -⟩ := hc
  exact fun h => hpad (h ▸ charOf_mem c g)

theorem mem_alphabet_iff (c : Config) (x : Byte) : x ∈ c.alphabet.toList ↔ ∃ g : Group, charOf c g = x := by
  constructor
  · intro h
    obtain ⟨i, hi, rfl⟩ := List.mem_iff_getElem.1 h
    have hi64 : i < 64 := by simpa using hi
    exact ⟨BitVec.ofFin ⟨i, hi64⟩, (Vector.getElem_toList ..).symm⟩
  · rintro ⟨g, rfl⟩
    exact charOf_mem c g

theorem indexFrom_eq_ite (x : Byte) (i : Nat) (cs : List Byte) :
    indexFrom x i cs = if x ∈ cs then some (i + cs.idxOf x) else none := by
  induction cs generalizing i with
  | nil => rfl
  | cons c cs ih =>
    by_cases hx : x = c
    · simp [indexFrom, hx]
    · simp [indexFrom, hx, ih, List.idxOf_cons_ne _ (Ne.symm hx), Nat.add_assoc, Nat.add_comm 1]

theorem indexOf_eq_none_iff (c : Config) (x : Byte) : indexOf c x = none ↔ x ∉ c.alphabet.toList := by
  simp [indexOf, indexFrom_eq_ite]

/-- The entries are distinct, so the first match is the only one. -/
theorem indexOf_charOf {c : Config} (hc : c.Valid) (g : Group) : indexOf c (charOf c g) = some g := by
  obtain ⟨hnodup, -, -, -, -, -⟩ := hc
  have hg : g.toNat < c.alphabet.toList.length := by simpa using g.isLt
  have hchar : charOf c g = c.alphabet.toList[g.toNat] := (Vector.getElem_toList ..).symm
  rw [indexOf, indexFrom_eq_ite, if_pos (charOf_mem c g), hchar, hnodup.idxOf_getElem]
  simp

/-! ## The 24-bit value of a chunk (42_base64.md R151, R155) -/

theorem toNat_shiftLeft_or {a b : Byte} {k : Nat} (ha : a.toNat * 2 ^ k < 2 ^ 8) (hb : b.toNat < 2 ^ k) :
    (a <<< k ||| b).toNat = a.toNat * 2 ^ k + b.toNat := by
  rw [BitVec.toNat_or, BitVec.toNat_shiftLeft, Nat.shiftLeft_eq, Nat.mod_eq_of_lt ha, ← Nat.shiftLeft_eq,
    Nat.shiftLeft_add_eq_or_of_lt hb]

theorem toNat_and_03 (b : Byte) : (b &&& 0x03).toNat = b.toNat % 4 := Nat.and_two_pow_sub_one_eq_mod b.toNat 2

theorem toNat_and_0F (b : Byte) : (b &&& 0x0F).toNat = b.toNat % 16 := Nat.and_two_pow_sub_one_eq_mod b.toNat 4

theorem toNat_and_3F (b : Byte) : (b &&& 0x3F).toNat = b.toNat % 64 := Nat.and_two_pow_sub_one_eq_mod b.toNat 6

@[simp] theorem group0_toNat (b0 : Byte) : (group0 b0).toNat = b0.toNat / 4 := by
  rw [group0, BitVec.toNat_setWidth, BitVec.toNat_ushiftRight, Nat.shiftRight_eq_div_pow]; omega

@[simp] theorem group1_toNat (b0 b1 : Byte) : (group1 b0 b1).toNat = b0.toNat % 4 * 16 + b1.toNat / 16 := by
  rw [group1, BitVec.toNat_setWidth, toNat_shiftLeft_or]
    <;> simp only [toNat_and_03, BitVec.toNat_ushiftRight, Nat.shiftRight_eq_div_pow] <;> omega

@[simp] theorem group2_toNat (b1 b2 : Byte) : (group2 b1 b2).toNat = b1.toNat % 16 * 4 + b2.toNat / 64 := by
  rw [group2, BitVec.toNat_setWidth, toNat_shiftLeft_or]
    <;> simp only [toNat_and_0F, BitVec.toNat_ushiftRight, Nat.shiftRight_eq_div_pow] <;> omega

@[simp] theorem group3_toNat (b2 : Byte) : (group3 b2).toNat = b2.toNat % 64 := by
  rw [group3, BitVec.toNat_setWidth, toNat_and_3F]; omega

/-- The 24-bit value of the bytes of a chunk. -/
def bytesValue (b0 b1 b2 : Byte) : Nat := b0.toNat * 65536 + b1.toNat * 256 + b2.toNat

/-- The 24-bit value of the groups of a chunk. -/
def groupsValue (v0 v1 v2 v3 : Group) : Nat := v0.toNat * 64 ^ 3 + v1.toNat * 64 ^ 2 + v2.toNat * 64 + v3.toNat

/-- Cutting a chunk into groups keeps its 24-bit value. -/
theorem groupsValue_groups (b0 b1 b2 : Byte) :
    groupsValue (group0 b0) (group1 b0 b1) (group2 b1 b2) (group3 b2) = bytesValue b0 b1 b2 := by
  simp only [groupsValue, bytesValue, group0_toNat, group1_toNat, group2_toNat, group3_toNat]; omega

/-- The bytes of a chunk are those of its 24-bit value, the most significant first. -/
theorem bytes_of_bytesValue (b0 b1 b2 : Byte) :
    (List.range 3).map (fun j => BitVec.ofNat 8 (bytesValue b0 b1 b2 / 256 ^ (2 - j))) = [b0, b1, b2] := by
  simp only [List.range_succ, List.range_zero, List.nil_append, List.cons_append, List.map_cons, List.map_nil,
    List.cons.injEq, and_true]
  refine ⟨BitVec.eq_of_toNat_eq ?_, BitVec.eq_of_toNat_eq ?_, BitVec.eq_of_toNat_eq ?_⟩
    <;> rw [BitVec.toNat_ofNat, bytesValue] <;> omega

/-- Joining the groups of a chunk to bytes keeps its 24-bit value. -/
theorem chunkBytes_eq (v0 v1 v2 v3 : Group) :
    chunkBytes v0 v1 v2 v3 = (List.range 3).map fun j => BitVec.ofNat 8 (groupsValue v0 v1 v2 v3 / 256 ^ (2 - j)) := by
  have hbyte (v : Group) : (v.setWidth 8).toNat = v.toNat := by rw [BitVec.toNat_setWidth]; omega
  have h0 : (v0.setWidth 8 <<< 2 ||| v1.setWidth 8 >>> 4).toNat = v0.toNat * 4 + v1.toNat / 16 := by
    rw [toNat_shiftLeft_or] <;> simp only [hbyte, BitVec.toNat_ushiftRight, Nat.shiftRight_eq_div_pow] <;> omega
  have h1 : ((v1.setWidth 8 &&& 0x0F) <<< 4 ||| v2.setWidth 8 >>> 2).toNat = v1.toNat % 16 * 16 + v2.toNat / 4 := by
    rw [toNat_shiftLeft_or]
      <;> simp only [toNat_and_0F, hbyte, BitVec.toNat_ushiftRight, Nat.shiftRight_eq_div_pow] <;> omega
  have h2 : ((v2.setWidth 8 &&& 0x03) <<< 6 ||| v3.setWidth 8).toNat = v2.toNat % 4 * 64 + v3.toNat := by
    rw [toNat_shiftLeft_or] <;> simp only [toNat_and_03, hbyte] <;> omega
  have hvalue : (v0.toNat * 4 + v1.toNat / 16) * 65536 + (v1.toNat % 16 * 16 + v2.toNat / 4) * 256 +
      (v2.toNat % 4 * 64 + v3.toNat) = groupsValue v0 v1 v2 v3 := by rw [groupsValue]; omega
  rw [chunkBytes, ← bytes_of_bytesValue, bytesValue, h0, h1, h2, hvalue]

/-- Cutting a chunk into groups and joining them again gives its bytes back. -/
theorem chunkBytes_groups (b0 b1 b2 : Byte) :
    chunkBytes (group0 b0) (group1 b0 b1) (group2 b1 b2) (group3 b2) = [b0, b1, b2] := by
  rw [chunkBytes_eq, groupsValue_groups, bytes_of_bytesValue]

/-! ## Encoding, one chunk at a time (42_base64.md R152) -/

/-- Character `p` of the first chunk of `s`: the letter of its 6-bit group, with 0 for a missing byte, or `PAD` above
the bytes there are. -/
def chunkChar (c : Config) (s : List Byte) (p : Nat) : Byte :=
  if s.length < p then c.pad
  else c.alphabet.get (Fin.ofNat 64 (bytesValue (s.getD 0 0) (s.getD 1 0) (s.getD 2 0) / 64 ^ (3 - p)))

theorem chunkChar_eq_pad_iff {c : Config} (hc : c.Valid) (s : List Byte) (p : Nat) :
    chunkChar c s p = c.pad ↔ s.length < p := by
  rw [chunkChar, ite_eq_left_iff, imp_iff_not_or, not_not]
  exact or_iff_left (charOf_ne_pad hc (BitVec.ofFin _))

theorem chunkChar_letter_or_pad (c : Config) (s : List Byte) (p : Nat) :
    chunkChar c s p ∈ c.alphabet.toList ∨ chunkChar c s p = c.pad := by
  unfold chunkChar
  split
  · exact .inr rfl
  · exact .inl (charOf_mem c (.ofFin _))

theorem charOf_eq_get {c : Config} {g : Group} {n : Nat} (h : g.toNat = n % 64) :
    charOf c g = c.alphabet.get (Fin.ofNat 64 n) := congrArg c.alphabet.get (Fin.ext h)

/-- A full, a 2-byte and a 1-byte chunk encode alike; nothing follows a short one. -/
theorem b64Enc_of_ne_nil (c : Config) {s : List Byte} (hs : s ≠ []) :
    b64Enc c s = (List.range 4).map (chunkChar c s) ++ b64Enc c (s.drop 3) := by
  have h0 (b0 b1 b2 : Byte) := charOf_eq_get (c := c) (g := group0 b0) (n := bytesValue b0 b1 b2 / 64 ^ 3)
    (by rw [group0_toNat, bytesValue]; omega)
  have h1 (b0 b1 b2 : Byte) := charOf_eq_get (c := c) (g := group1 b0 b1) (n := bytesValue b0 b1 b2 / 64 ^ 2)
    (by rw [group1_toNat, bytesValue]; omega)
  have h2 (b0 b1 b2 : Byte) := charOf_eq_get (c := c) (g := group2 b1 b2) (n := bytesValue b0 b1 b2 / 64 ^ 1)
    (by rw [group2_toNat, bytesValue]; omega)
  have h3 (b0 b1 b2 : Byte) := charOf_eq_get (c := c) (g := group3 b2) (n := bytesValue b0 b1 b2 / 64 ^ 0)
    (by rw [group3_toNat, bytesValue]; omega)
  match s, hs with
  | [b0], _ => rw [b64Enc, h0 b0 0 0, h1 b0 0 0]; rfl
  | [b0, b1], _ => rw [b64Enc, h0 b0 b1 0, h1 b0 b1 0, h2 b0 b1 0]; rfl
  | b0 :: b1 :: b2 :: rest, _ =>
    rw [b64Enc, h0 b0 b1 b2, h1 b0 b1 b2, h2 b0 b1 b2, h3 b0 b1 b2]
    simp [List.range_succ, chunkChar]

/-- Character `i` stands in chunk `i / 4` at position `i % 4`. -/
theorem b64Enc_getElem? (c : Config) {i : Nat} {s : List Byte} (hi : i < encodedLength s.length) :
    (b64Enc c s)[i]? = some (chunkChar c (s.drop (3 * (i / 4))) (i % 4)) := by
  have hs : s ≠ [] := by rintro rfl; simp [encodedLength] at hi
  rw [b64Enc_of_ne_nil c hs]
  by_cases h : i < 4
  · rw [List.getElem?_append_left (by simpa using h), Nat.div_eq_of_lt h, Nat.mod_eq_of_lt h]
    simp [h]
  · obtain ⟨j, rfl⟩ : ∃ j, i = j + 4 := ⟨i - 4, by omega⟩
    have hj : j < encodedLength (s.drop 3).length := by
      simp only [encodedLength, List.length_drop] at hi ⊢
      omega
    rw [List.getElem?_append_right (by simp)]
    simpa [Nat.mul_add, Nat.add_comm 3] using b64Enc_getElem? c hj
termination_by i

/-- The obligations' formula for a character is that of its chunk. -/
theorem specEncoded_eq_chunkChar (c : Config) (s : List Byte) (i : Nat) :
    specEncoded c s.length (fun j => s.getD j 0) i = chunkChar c (s.drop (3 * (i / 4))) (i % 4) := by
  have hat (j : Nat) : (if j < s.length then (s[j]?.getD 0).toNat else 0) = (s[j]?.getD 0).toNat := by
    by_cases h : j < s.length <;> simp [h]
  have hpad : min 3 (s.length - 3 * (i / 4)) < i % 4 ↔ s.length - 3 * (i / 4) < i % 4 := by omega
  simp only [specEncoded, hat, hpad, chunkChar, bytesValue, List.length_drop, List.getD_eq_getElem?_getD,
    List.getElem?_drop, Nat.add_zero]

/-! ## Decoding, one chunk at a time (42_base64.md R154, R155) -/

/-- Induction over the whole chunks of a character sequence. -/
theorem chunksInduction {motive : (t : List Byte) → t.length % 4 = 0 → Prop} (nil : motive [] rfl)
    (chunk : ∀ c0 c1 c2 c3 rest (h : List.length rest % 4 = 0), motive rest h →
      motive (c0 :: c1 :: c2 :: c3 :: rest) ((Nat.add_mod_right ..).trans h)) :
    ∀ t h, motive t h
  | [], _ => nil
  | c0 :: c1 :: c2 :: c3 :: rest, h =>
    have hrest : rest.length % 4 = 0 := (Nat.add_mod_right ..).symm.trans h
    chunk c0 c1 c2 c3 rest hrest (chunksInduction nil chunk rest hrest)
  | [_], h | [_, _], h | [_, _, _], h => nomatch h

theorem padCount_two (c : Config) : padCount c true c.pad c.pad = 2 := by simp [padCount]

theorem padCount_one {c : Config} {x : Byte} (h : x ≠ c.pad) : padCount c true x c.pad = 1 := by simp [padCount, h]

theorem padCount_zero {c : Config} {x : Byte} (h : x ≠ c.pad) (final : Bool) (c2 : Byte) :
    padCount c final c2 x = 0 := by simp [padCount, h]

theorem padCount_not_final (c : Config) (c2 c3 : Byte) : padCount c false c2 c3 = 0 := by simp [padCount]

theorem charValue_charOf {c : Config} (hc : c.Valid) {pads p : Nat} (hp : p < 4 - pads) (g : Group) :
    charValue c pads p (charOf c g) = some g := (if_pos hp).trans (indexOf_charOf hc g)

theorem decodeChunk_eq_bind (c : Config) (pads : Nat) (c0 c1 c2 c3 : Byte) :
    decodeChunk c pads c0 c1 c2 c3 =
      (charValue c pads 0 c0).bind fun v0 => (charValue c pads 1 c1).bind fun v1 =>
        (charValue c pads 2 c2).bind fun v2 => (charValue c pads 3 c3).bind fun v3 =>
          some ((chunkBytes v0 v1 v2 v3).take (3 - pads)) := by
  unfold decodeChunk
  rcases charValue c pads 0 c0 with _ | v0
  · rfl
  rcases charValue c pads 1 c1 with _ | v1
  · rfl
  rcases charValue c pads 2 c2 with _ | v2
  · rfl
  rcases charValue c pads 3 c3 with _ | v3 <;> rfl

theorem decodeChunk_of_values {c : Config} {pads : Nat} {c0 c1 c2 c3 : Byte} {v0 v1 v2 v3 : Group}
    (h0 : charValue c pads 0 c0 = some v0) (h1 : charValue c pads 1 c1 = some v1)
    (h2 : charValue c pads 2 c2 = some v2) (h3 : charValue c pads 3 c3 = some v3) :
    decodeChunk c pads c0 c1 c2 c3 = some ((chunkBytes v0 v1 v2 v3).take (3 - pads)) := by
  rw [decodeChunk, h0, h1, h2, h3]

theorem decodeChunk_eq_none {c : Config} {pads : Nat} {c0 c1 c2 c3 : Byte} {p : Nat} (hp : p < 4)
    (h : charValue c pads p ([c0, c1, c2, c3].getD p 0) = none) : decodeChunk c pads c0 c1 c2 c3 = none := by
  rw [decodeChunk_eq_bind]
  match p, hp with
  | 0, _ | 1, _ | 2, _ | 3, _ => simp_all

theorem decodeChunks_of_none {c : Config} {c0 c1 c2 c3 : Byte} {rest : List Byte}
    (h : decodeChunk c (padCount c rest.isEmpty c2 c3) c0 c1 c2 c3 = none) :
    decodeChunks c (c0 :: c1 :: c2 :: c3 :: rest) = .error .invalidCharacter := by
  rw [decodeChunks, h]

theorem decodeChunks_of_some {c : Config} {c0 c1 c2 c3 : Byte} {rest bytes : List Byte}
    (h : decodeChunk c (padCount c rest.isEmpty c2 c3) c0 c1 c2 c3 = some bytes) :
    decodeChunks c (c0 :: c1 :: c2 :: c3 :: rest) = (decodeChunks c rest).map (bytes ++ ·) := by
  rw [decodeChunks, h]
  cases decodeChunks c rest <;> rfl

theorem b64Dec_of_whole_chunks {c : Config} {t : List Byte} (h : t.length % 4 = 0) : b64Dec c t = decodeChunks c t :=
  if_neg (not_not.2 h)

/-! ## The 6-bit values of all characters -/

theorem specPads_le_two (c : Config) (t : List Byte) : specPads c t ≤ 2 := by unfold specPads; split_ifs <;> omega

/-- The padding of a sequence is that of its final chunk. -/
theorem specPads_chunk (c : Config) (c0 c1 c2 c3 : Byte) {rest : List Byte} (h : rest.length % 4 = 0) :
    specPads c (c0 :: c1 :: c2 :: c3 :: rest) = padCount c rest.isEmpty c2 c3 + specPads c rest := by
  cases rest with
  | nil => simp [specPads, padCount]
  | cons x rest =>
    simp only [List.length_cons] at h
    have h2 : rest.length + 1 + 1 + 1 + 1 + 1 - 2 = rest.length + 1 - 2 + 4 := by omega
    have h1 : rest.length + 1 + 1 + 1 + 1 + 1 - 1 = rest.length + 1 - 1 + 4 := by omega
    simp only [specPads, padCount_not_final, List.length_cons, List.isEmpty_cons, h2, h1, List.getD_cons_succ,
      Nat.zero_add, Nat.succ_ne_zero, if_false]

/-- A chunk is final, with no padding after it, or it has no padding itself. -/
theorem final_or_unpadded (c : Config) (c2 c3 : Byte) {rest : List Byte} (h : rest.length % 4 = 0) :
    (rest.length = 0 ∧ specPads c rest = 0) ∨ (4 ≤ rest.length ∧ padCount c rest.isEmpty c2 c3 = 0) := by
  cases rest with
  | nil => exact .inl ⟨rfl, rfl⟩
  | cons x rest =>
    simp only [List.length_cons] at h ⊢
    exact .inr ⟨by omega, padCount_not_final c c2 c3⟩

theorem getD_of_padding {c : Config} {t : List Byte} {i : Nat} (hi : i < t.length) (h : t.length - specPads c t ≤ i) :
    t.getD i 0 = c.pad := by
  unfold specPads at h
  split_ifs at h with h0 h2 h1
  · omega
  · obtain hi | hi : i = t.length - 2 ∨ i = t.length - 1 := by omega
    · exact hi ▸ h2.1
    · exact hi ▸ h2.2
  · rwa [show i = t.length - 1 by omega]
  · omega

/-- The value of character `i` of the whole sequence `t`: `INDEX` before the final padding, and 0 from there on. -/
def valueAt (c : Config) (t : List Byte) (i : Nat) : Option Group :=
  if i < t.length - specPads c t then indexOf c (t.getD i 0) else some 0

theorem valueAt_chunk (c : Config) (c0 c1 c2 c3 : Byte) {rest : List Byte} (h : rest.length % 4 = 0) {p : Nat}
    (hp : p < 4) :
    valueAt c (c0 :: c1 :: c2 :: c3 :: rest) p =
      charValue c (padCount c rest.isEmpty c2 c3) p ([c0, c1, c2, c3].getD p 0) := by
  have hchar : (c0 :: c1 :: c2 :: c3 :: rest).getD p 0 = [c0, c1, c2, c3].getD p 0 :=
    List.getD_append [c0, c1, c2, c3] rest 0 p hp
  have hbefore : p < (c0 :: c1 :: c2 :: c3 :: rest).length - specPads c (c0 :: c1 :: c2 :: c3 :: rest) ↔
      p < 4 - padCount c rest.isEmpty c2 c3 := by
    have := final_or_unpadded c c2 c3 h
    have := specPads_le_two c rest
    simp only [specPads_chunk c c0 c1 c2 c3 h, List.length_cons]
    omega
  rw [valueAt, charValue, hchar, if_congr hbefore rfl rfl]

theorem valueAt_add_four (c : Config) (c0 c1 c2 c3 : Byte) {rest : List Byte} (h : rest.length % 4 = 0) (i : Nat) :
    valueAt c (c0 :: c1 :: c2 :: c3 :: rest) (i + 4) = valueAt c rest i := by
  have hbefore : i + 4 < (c0 :: c1 :: c2 :: c3 :: rest).length - specPads c (c0 :: c1 :: c2 :: c3 :: rest) ↔
      i < rest.length - specPads c rest := by
    have := final_or_unpadded c c2 c3 h
    simp only [specPads_chunk c c0 c1 c2 c3 h, List.length_cons]
    omega
  exact if_congr hbefore rfl rfl

/-- A character before the final padding that is no letter (42_base64.md R155). -/
theorem decodeChunks_of_valueAt_none {c : Config} {t : List Byte} (ht : t.length % 4 = 0) {i : Nat}
    (hi : valueAt c t i = none) : decodeChunks c t = .error .invalidCharacter := by
  induction t, ht using chunksInduction generalizing i with
  | nil => simp [valueAt] at hi
  | chunk c0 c1 c2 c3 rest hrest ih =>
    cases hchunk : decodeChunk c (padCount c rest.isEmpty c2 c3) c0 c1 c2 c3 with
    | none => exact decodeChunks_of_none hchunk
    | some bytes =>
      have h4 : 4 ≤ i := by
        by_contra h
        rw [valueAt_chunk c c0 c1 c2 c3 hrest (by omega)] at hi
        simp [decodeChunk_eq_none (by omega) hi] at hchunk
      obtain ⟨j, rfl⟩ : ∃ j, i = j + 4 := ⟨i - 4, by omega⟩
      rw [decodeChunks_of_some hchunk, ih ((valueAt_add_four c c0 c1 c2 c3 hrest j).symm.trans hi)]
      rfl

theorem specDecoded_of_lt {v : Nat → Fin 64} {j : Nat} (h : j < 3) :
    specDecoded v j =
      BitVec.ofNat 8 (groupsValue (.ofFin (v 0)) (.ofFin (v 1)) (.ofFin (v 2)) (.ofFin (v 3)) / 256 ^ (2 - j)) := by
  simp [specDecoded, groupsValue, Nat.div_eq_of_lt h, Nat.mod_eq_of_lt h]

theorem specDecoded_add_three (v : Nat → Fin 64) (j : Nat) :
    specDecoded v (j + 3) = specDecoded (fun i => v (i + 4)) j := by
  simp [specDecoded, Nat.mul_add, Nat.add_right_comm _ 4]

/-- Every character before the final padding is a letter (42_base64.md R155). -/
theorem decodeChunks_of_valueAt_some {c : Config} {t : List Byte} (ht : t.length % 4 = 0) {v : Nat → Fin 64}
    (hv : ∀ i, valueAt c t i = some (.ofFin (v i))) :
    ∃ r, decodeChunks c t = .ok r ∧ r.length = 3 * (t.length / 4) - specPads c t ∧
      ∀ j, j < r.length → r[j]? = some (specDecoded v j) := by
  induction t, ht using chunksInduction generalizing v with
  | nil => exact ⟨[], rfl, rfl, fun _ hj => absurd hj (Nat.not_lt_zero _)⟩
  | chunk c0 c1 c2 c3 rest hrest ih =>
    have hvalue {p : Nat} (hp : p < 4) := (valueAt_chunk c c0 c1 c2 c3 hrest hp).symm.trans (hv p)
    have hchunk := decodeChunk_of_values (hvalue (p := 0) (by omega)) (hvalue (p := 1) (by omega))
      (hvalue (p := 2) (by omega)) (hvalue (p := 3) (by omega))
    obtain ⟨more, hmore, hlen, hbytes⟩ := ih fun i => (valueAt_add_four c c0 c1 c2 c3 hrest i).symm.trans (hv (i + 4))
    have hlast := final_or_unpadded c c2 c3 hrest
    have hchunkLen := decodeChunk_length hchunk
    have hpads := specPads_le_two c rest
    refine ⟨_, (decodeChunks_of_some hchunk).trans (congrArg _ hmore), ?length, fun j hj => ?byte⟩
    case length =>
      rw [List.length_append, hchunkLen, hlen, specPads_chunk c c0 c1 c2 c3 hrest]
      simp only [List.length_cons]
      omega
    case byte =>
      rw [List.length_append] at hj
      by_cases hj3 : j < 3
      · rw [List.getElem?_append_left (by omega), List.getElem?_take_of_lt (by omega), chunkBytes_eq,
          specDecoded_of_lt hj3]
        simp [hj3]
      · obtain ⟨k, rfl⟩ : ∃ k, j = k + 3 := ⟨j - 3, by omega⟩
        rw [List.getElem?_append_right (by omega), specDecoded_add_three, ← hbytes k (by omega)]
        congr 1
        omega

/-! ## Decoding undoes encoding (42_base64.md R161) -/

theorem decodeChunk_groups {c : Config} (hc : c.Valid) {pads : Nat} (hpads : pads ≤ 2) {b0 b1 b2 c2 c3 : Byte}
    (h2 : charValue c pads 2 c2 = some (group2 b1 b2)) (h3 : charValue c pads 3 c3 = some (group3 b2)) :
    decodeChunk c pads (charOf c (group0 b0)) (charOf c (group1 b0 b1)) c2 c3 =
      some ([b0, b1, b2].take (3 - pads)) := by
  rw [decodeChunk_of_values (charValue_charOf hc (by omega) _) (charValue_charOf hc (by omega) _) h2 h3,
    chunkBytes_groups]

theorem decodeChunks_b64Enc {c : Config} (hc : c.Valid) (s : List Byte) : decodeChunks c (b64Enc c s) = .ok s := by
  have hpad := charOf_ne_pad hc
  induction s using b64Enc.induct with
  | case1 => rfl
  | case2 b0 =>
    refine decodeChunks_of_some (rest := []) (bytes := [b0]) ?_
    rw [List.isEmpty_nil, padCount_two, decodeChunk_groups hc (b1 := 0) (b2 := 0)] <;> rfl
  | case3 b0 b1 =>
    refine decodeChunks_of_some (rest := []) (bytes := [b0, b1]) ?_
    rw [List.isEmpty_nil, padCount_one (hpad _), decodeChunk_groups hc (b2 := 0)]
    · rfl
    · omega
    · exact charValue_charOf hc (by omega) _
    · rfl
  | case4 b0 b1 b2 rest ih =>
    rw [b64Enc, decodeChunks_of_some (bytes := [b0, b1, b2]), ih]
    · rfl
    · rw [padCount_zero (hpad _)]
      exact decodeChunk_groups hc (Nat.zero_le 2) (charValue_charOf hc (by omega) _) (charValue_charOf hc (by omega) _)

/-! ## The bits that decoding discards (42_base64.md R157) -/

/-- Neither part is empty, so no chunk of the front is final. -/
theorem decodeChunks_append_congr {c : Config} {front u w : List Byte} (hf : front.length % 4 = 0) (hu : u ≠ [])
    (hw : w ≠ []) (h : decodeChunks c u = decodeChunks c w) :
    decodeChunks c (front ++ u) = decodeChunks c (front ++ w) := by
  induction front, hf using chunksInduction with
  | nil => exact h
  | chunk c0 c1 c2 c3 rest hrest ih =>
    have hnotFinal {t : List Byte} (ht : t ≠ []) : (rest ++ t).isEmpty = false :=
      List.isEmpty_eq_false_iff.2 (List.append_ne_nil_of_right_ne_nil _ ht)
    simp only [List.cons_append, decodeChunks, hnotFinal hu, hnotFinal hw, ih]

theorem setWidth_ushiftRight_congr {v w : Group} {k : Nat} (h : v.toNat / 2 ^ k = w.toNat / 2 ^ k) :
    v.setWidth 8 >>> k = w.setWidth 8 >>> k := by
  apply BitVec.eq_of_toNat_eq
  simp only [BitVec.toNat_ushiftRight, Nat.shiftRight_eq_div_pow, BitVec.toNat_setWidth]
  rw [Nat.mod_eq_of_lt (by omega), Nat.mod_eq_of_lt (by omega), h]

/-- In `xx==` the low 4 bits of the second value are discarded. -/
theorem decodeChunk_two_pads {c : Config} (hc : c.Valid) {v w : Group} (h : v.toNat / 16 = w.toNat / 16) (x : Byte) :
    decodeChunk c 2 x (charOf c v) c.pad c.pad = decodeChunk c 2 x (charOf c w) c.pad c.pad := by
  have hshift : v.setWidth 8 >>> 4 = w.setWidth 8 >>> 4 := setWidth_ushiftRight_congr h
  simp only [decodeChunk_eq_bind, charValue_charOf hc (show 1 < 4 - 2 by omega), Option.bind_some, chunkBytes,
    List.take_succ_cons, List.take_zero, hshift]

/-- In `xxx=` the low 2 bits of the third value are discarded. -/
theorem decodeChunk_one_pad {c : Config} (hc : c.Valid) {v w : Group} (h : v.toNat / 4 = w.toNat / 4) (x y : Byte) :
    decodeChunk c 1 x y (charOf c v) c.pad = decodeChunk c 1 x y (charOf c w) c.pad := by
  have hshift : v.setWidth 8 >>> 2 = w.setWidth 8 >>> 2 := setWidth_ushiftRight_congr h
  simp only [decodeChunk_eq_bind, charValue_charOf hc (show 2 < 4 - 1 by omega), Option.bind_some, chunkBytes,
    List.take_succ_cons, List.take_zero, hshift]

/-- Two final chunks that decode alike do so after any front of whole chunks. -/
theorem b64Dec_final_chunk_congr {c : Config} {front : List Byte} (hf : front.length % 4 = 0)
    {x0 x1 x2 x3 y0 y1 y2 y3 : Byte} (hpads : padCount c true x2 x3 = padCount c true y2 y3)
    (h : decodeChunk c (padCount c true x2 x3) x0 x1 x2 x3 = decodeChunk c (padCount c true x2 x3) y0 y1 y2 y3) :
    b64Dec c (front ++ [x0, x1, x2, x3]) = b64Dec c (front ++ [y0, y1, y2, y3]) := by
  have hwhole (u : List Byte) (hu : u.length = 4) : (front ++ u).length % 4 = 0 := by simp [hu, hf]
  rw [b64Dec_of_whole_chunks (hwhole _ rfl), b64Dec_of_whole_chunks (hwhole _ rfl)]
  refine decodeChunks_append_congr hf (List.cons_ne_nil _ _) (List.cons_ne_nil _ _) ?_
  simp only [decodeChunks, List.isEmpty_nil, ← hpads, h]

/-! ## The obligations -/

/-- Settles O18: short and full chunks encode alike, by `b64Enc_of_ne_nil`. -/
theorem base64EncodeCharFormula : Obligations.Base64EncodeCharFormula := fun c s =>
  ⟨b64Enc_length c s, fun i hi => (b64Enc_getElem? c hi).trans (congrArg some (specEncoded_eq_chunkChar c s i).symm)⟩

/-- Settles O19: no letter is `PAD`, so `PAD` stands where a position lies above the bytes of its chunk. -/
theorem encodedLengthAndPadding : Obligations.EncodedLengthAndPadding := by
  intro c hc s
  have hlen : (b64Enc c s).length = 4 * ((s.length + 2) / 3) := b64Enc_length c s
  refine ⟨hlen, by omega, rfl, fun i => ?_⟩
  by_cases hi : i < encodedLength s.length
  · rw [b64Enc_getElem? c hi, Option.some_inj, chunkChar_eq_pad_iff hc, List.length_drop, hlen]
    unfold encodedLength at hi
    omega
  · rw [List.getElem?_eq_none (by rw [b64Enc_length]; omega), hlen]
    unfold encodedLength at hi
    simp only [reduceCtorEq, false_iff]
    omega

/-- Settles O20: `valueAt` gives the 6-bit value of every character; decoding fails where one is missing. -/
theorem base64DecodeOutcome : Obligations.Base64DecodeOutcome := by
  intro c hc t
  refine ⟨fun ht => if_pos ht, rfl, fun ht => ?invalid, fun ht v hletter hzero => ?decoded⟩
  case invalid =>
    rintro ⟨i, hi, hno⟩
    rw [b64Dec_of_whole_chunks ht]
    refine decodeChunks_of_valueAt_none ht (i := i) ((if_pos hi).trans ?_)
    rw [indexOf_eq_none_iff, mem_alphabet_iff]
    exact fun ⟨g, hg⟩ => hno g.toFin hg
  case decoded =>
    rw [b64Dec_of_whole_chunks ht]
    refine decodeChunks_of_valueAt_some ht fun i => ?_
    unfold valueAt
    split_ifs with hi
    · rw [← hletter i hi]
      exact indexOf_charOf hc (.ofFin (v i))
    · rw [hzero i (by omega)]; rfl

/-- Settles O21: the first byte of a chunk takes only the high 2 bits of the second value, and the second byte only the
high 4 bits of the third. -/
theorem nonCanonicalBitsIgnored : Obligations.NonCanonicalBitsIgnored := by
  refine ⟨fun c hc front x v w hf h => ?twoPads, fun c hc front x y v w hf h => ?onePad, by decide, by decide⟩
  case twoPads =>
    refine b64Dec_final_chunk_congr hf rfl ?_
    rw [padCount_two]
    exact decodeChunk_two_pads hc (v := .ofFin v) (w := .ofFin w) h x
  case onePad =>
    have hpads (g : Fin 64) : padCount c true (c.alphabet.get g) c.pad = 1 := padCount_one (charOf_ne_pad hc (.ofFin g))
    refine b64Dec_final_chunk_congr hf ((hpads v).trans (hpads w).symm) ?_
    rw [hpads]
    exact decodeChunk_one_pad hc (v := .ofFin v) (w := .ofFin w) h x y

/-- Settles O22, by induction over the chunks of `s`. -/
theorem base64RoundTrip : Obligations.Base64RoundTrip := by
  intro c hc s
  have hwhole : (b64Enc c s).length % 4 = 0 := by rw [b64Enc_length, encodedLength]; omega
  rw [b64Dec_of_whole_chunks hwhole, decodeChunks_b64Enc hc]

/-- Settles O23: a character that is not `PAD` stands before the final padding, where decoding looks it up. -/
theorem base64CharacterSet : Obligations.Base64CharacterSet := by
  refine fun c hc => ⟨fun s x hx => ?produced, fun t x ht hx hletter hpad => ?rejected⟩
  case produced =>
    obtain ⟨i, hi, rfl⟩ := List.mem_iff_getElem.1 hx
    have hchar := List.getElem?_eq_getElem hi
    rw [b64Enc_getElem? c (b64Enc_length c s ▸ hi), Option.some_inj] at hchar
    rw [← hchar]
    exact chunkChar_letter_or_pad ..
  case rejected =>
    obtain ⟨i, hi, rfl⟩ := List.mem_iff_getElem.1 hx
    rw [← List.getD_eq_getElem t 0 hi] at hletter hpad
    have hbefore : i < t.length - specPads c t := by
      by_contra h
      exact hpad (getD_of_padding hi (by omega))
    rw [b64Dec_of_whole_chunks ht]
    exact decodeChunks_of_valueAt_none ht ((if_pos hbefore).trans ((indexOf_eq_none_iff c _).2 hletter))

end Sys2Proof.Machine
end

section
/-! Issuing a command and loading a message (43_pipeline.md R180; 30_encoding.md R98): a write of `CMD` to an idle
block, and what the host's ISSUE with an engine step and its LOAD leave of an idle block, as runs from any state. -/

namespace Sys2Proof.Machine

/-! ## A write of CMD -/

theorem State.issue_legal {v : Word} {i : Instr} {s : State} (hb : s.busy = false) (hd : decode v = .ok i) :
    s.issue v = s.acceptCommand (opcField v) := by
  simp [State.issue, hb, hd]

theorem State.issue_illegal {v : Word} {e : Illegal} {s : State} (hb : s.busy = false) (hd : decode v = .error e) :
    s.issue v = s.raiseError .illegalCommand := by
  simp [State.issue, hb, hd]

theorem opcField_eq_ofNat (v : Word) : opcField v = BitVec.ofNat 8 (v.toNat % 256) :=
  BitVec.eq_of_toNat_eq (by simp [opcField_toNat])

theorem opcField_encode (i : Instr) : opcField (encode i) = opcode i := by cases i <;> rfl

theorem step_wr {s : State} {r : Reg} {v : Word} {rest : List Event} (h : s.events = wr r v :: rest) :
    step s = .next (State.hostWrite (regOffset r) v { s with events := rest }) :=
  step_write (by cases r <;> decide) h

/-! ## A command from its issue to its end -/

theorem step_issue_encode {s : State} {i : Instr} {rest : List Event} (hb : s.busy = false)
    (h : s.events = wr .cmd (encode i) :: rest) :
    step s = .next (State.acceptCommand (opcode i) { s with events := rest }) := by
  rw [step_wr h, regOffset, State.hostWrite_cmd,
    State.issue_legal (s := { s with events := rest }) hb (decode_encode i), opcField_encode]

/-- The pending word of an accepted command is its full word, so the engine performs that command (43_pipeline.md
R187). -/
theorem step_engine_accepted {s : State} {i : Instr} {rest : List Event} :
    step (State.acceptCommand (opcode i) { s with events := .engine :: rest }) =
      exec i (State.acceptCommand (opcode i) { s with events := rest }) :=
  step_engine (s := State.acceptCommand (opcode i) { s with events := .engine :: rest }) rfl rfl (decode_encode i)

theorem run_issue_engine {s t : State} {i : Instr} {rest : List Event} (hb : s.busy = false)
    (hev : s.events = issueOf i ++ .engine :: rest)
    (hexec : exec i (State.acceptCommand (opcode i) { s with events := rest }) = .next t) :
    Host.Core.run core 2 s = .next t :=
  (run_next 1 (step_issue_encode hb hev)).trans (run_next 0 (step_engine_accepted.trans hexec))

/-- An issued command whose meaning completes with `out` ends idle, with success and with `out` as the message. -/
theorem run_command_completes {s : State} {i : Instr} {out : List Byte} {rest : List Event} (hb : s.busy = false)
    (hev : s.events = issueOf i ++ .engine :: rest) (hout : out.length < 2 ^ 32)
    (hexec : exec i (State.acceptCommand (opcode i) { s with events := rest }) =
      .next (State.complete out (State.acceptCommand (opcode i) { s with events := rest }))) :
    ∃ t : State, Host.Core.run core 2 s = .next t ∧ t.message = out ∧ t.cfg = s.cfg ∧ t.events = rest ∧
      t.err = .none ∧ t.done = true ∧ t.busy = false :=
  ⟨_, run_issue_engine hb hev hexec, State.message_complete _ out hout, rfl, rfl, rfl, rfl, rfl⟩

/-! ## LOAD -/

theorem step_wr_ddata {s : State} {b : Byte} {rest : List Event} (hb : s.busy = false)
    (hd : s.dptr.toNat < s.cfg.bufBytes) (h : s.events = wr .ddata (b.setWidth 32) :: rest) :
    step s = .next (State.advanceDptr (State.memWrite s.dptr.toNat b { s with events := rest })) := by
  have hbyte : (b.setWidth 32).setWidth 8 = b := by simp
  rw [step_write_ddata h, State.writePort_inRange _ (s := { s with events := rest }) hb hd, hbyte]

/-- Writes of `DDATA` from an idle block store their bytes from `DPTR` on, as long as they stay inside the buffer
(20_memory.md R66). -/
theorem run_port_writes {s : State} {i : Nat} {msg : List Byte} {rest : List Event} (hb : s.busy = false)
    (hbuf : s.cfg.bufBytes ≤ 2 ^ 31) (hd : s.dptr = BitVec.ofNat 32 i) (hfit : i + msg.length ≤ s.cfg.bufBytes)
    (hev : s.events = (msg.map fun b => wr .ddata (b.setWidth 32)) ++ rest) :
    Host.Core.run core msg.length s = .next { s with
      data := Memory.putAll i msg s.data
      dptr := BitVec.ofNat 32 (i + msg.length)
      events := rest } := by
  induction msg generalizing s i with
  | nil =>
    obtain rfl : s.events = rest := hev
    rw [List.length_nil, run_zero, Nat.add_zero, ← hd]
    rfl
  | cons b msg ih =>
    rw [List.length_cons] at hfit
    have hi : s.dptr.toNat = i := by rw [hd, BitVec.toNat_ofNat, Nat.mod_eq_of_lt (by omega)]
    have hnext : s.dptr + 1 = BitVec.ofNat 32 (i + 1) := by rw [hd, BitVec.ofNat_add]; rfl
    have hstep := step_wr_ddata hb (by omega) hev
    have htail := ih (s := State.advanceDptr (State.memWrite s.dptr.toNat b { s with events := _ })) hb hbuf hnext
      (by rwa [Nat.add_right_comm]) rfl
    rw [hi] at hstep htail
    rw [Nat.add_right_comm] at htail
    exact (run_next _ hstep).trans htail

theorem step_wr_dptr {s : State} {v : Word} {rest : List Event} (hb : s.busy = false)
    (h : s.events = wr .dptr v :: rest) : step s = .next { s with dptr := v, events := rest } := by
  rw [step_wr h, regOffset, State.hostWrite_dptr, State.writeDptr_idle v (s := { s with events := rest }) hb]

theorem step_wr_len {s : State} {v : Word} {rest : List Event} (hb : s.busy = false)
    (h : s.events = wr .len v :: rest) : step s = .next { s with len := v, events := rest } := by
  rw [step_wr h, regOffset, State.hostWrite_len, State.writeLen_idle v (s := { s with events := rest }) hb]

/-- What LOAD of `msg` leaves of a state, with the events `rest` to come (30_encoding.md R98). -/
def State.loaded (msg : List Byte) (rest : List Event) (s : State) : State :=
  { s with
    data := Memory.putAll 0 msg s.data
    len := BitVec.ofNat 32 msg.length
    dptr := BitVec.ofNat 32 msg.length
    events := rest }

/-- LOAD leaves the `DATA` and the `LEN` that `complete` leaves of the same output. -/
theorem State.message_loaded (s : State) {msg : List Byte} (rest : List Event) (h : msg.length < 2 ^ 32) :
    (s.loaded msg rest).message = msg :=
  State.message_complete s msg h

theorem run_load {s : State} {msg : List Byte} {rest : List Event} (hb : s.busy = false)
    (hbuf : s.cfg.bufBytes ≤ 2 ^ 31) (hfit : msg.length ≤ s.cfg.bufBytes) (hev : s.events = loadOf msg ++ rest) :
    Host.Core.run core (msg.length + 2) s = .next (s.loaded msg rest) := by
  have hcons : s.events = wr .dptr 0 :: ((msg.map fun b => wr .ddata (b.setWidth 32)) ++
      wr .len (BitVec.ofNat 32 msg.length) :: rest) := by
    simp only [hev, loadOf, List.cons_append, List.append_assoc, List.nil_append]
  have hports := run_port_writes (s := { s with dptr := 0, events := _ }) (i := 0)
    (rest := wr .len (BitVec.ofNat 32 msg.length) :: rest) hb hbuf rfl (by rwa [Nat.zero_add]) rfl
  rw [Nat.zero_add] at hports
  exact (run_next _ (step_wr_dptr hb hcons)).trans ((run_add 1 hports).trans (run_next 0 (step_wr_len hb rfl)))

/-! ## The obligation -/

/-- Settles O41: a write of `CMD` by its three paths, a word below 8 being a command's full word. -/
theorem issueOfACommand : Obligations.IssueOfACommand := by
  intro s v rest h
  rw [step_write (by decide) h]
  refine ⟨fun hb => ?busy, fun hb hv => ?legal, fun hb hv => ?illegal⟩
  case busy => rw [State.hostWrite_busy v (s := { s with events := rest }) (.inl rfl) hb]; rfl
  case legal =>
    obtain ⟨i, rfl⟩ := exists_encode_eq hv
    rw [State.hostWrite_cmd, State.issue_legal (s := { s with events := rest }) hb (decode_encode i),
      ← opcField_eq_ofNat]
    rfl
  case illegal =>
    obtain ⟨e, he⟩ := exists_decode_eq_error hv
    rw [State.hostWrite_cmd, State.issue_illegal (s := { s with events := rest }) hb he]
    simp only [State.raiseError, State.endCommand, hb]

end Sys2Proof.Machine
end

section
/-! The pipeline PENC and PDEC (43_pipeline.md R184 to R186): the two compositions undo each other, what the commands do
with a message that fits, and the round trip a host sees. -/

namespace Sys2Proof.Machine

/-! ## The compositions -/

@[simp] theorem pipeEncode_length (c : Config) (msg : List Byte) :
    (pipeEncode c msg).length = encodedLength msg.length := by
  simp [pipeEncode]

theorem pipeDecode_of_decoded {c : Config} {t r : List Byte} (h : b64Dec c t = .ok r) :
    pipeDecode c t = .ok (maskApply c.mask (diffDec r)) := by
  simp only [pipeDecode, h]

/-- Each stage of the decoding undoes its stage of the encoding, in the opposite order (43_pipeline.md R186). -/
theorem pipeDecode_pipeEncode {c : Config} (hc : c.Valid) (msg : List Byte) :
    pipeDecode c (pipeEncode c msg) = .ok msg := by
  rw [pipeEncode, pipeDecode_of_decoded (base64RoundTrip c hc _), diffDec_diffEnc, maskApply_maskApply]

/-! ## The commands PENC and PDEC -/

theorem le_encodedLength (n : Nat) : n ≤ encodedLength n := by unfold encodedLength; omega

theorem exec_penc_of_fits {s : State} (h : encodedLength s.len.toNat ≤ s.cfg.bufBytes) :
    exec .penc s = .next (s.complete (pipeEncode s.cfg s.message)) := by
  show Host.Outcome.next (s.finish (pencResult s)) = _
  rw [pencResult, State.onMessage_fits ((le_encodedLength _).trans h), State.message_length, fitEncoded,
    if_neg (Nat.not_lt.2 h), State.finish_ok]

theorem exec_pdec_of_decoded {s : State} {out : List Byte} (hs : s.len.toNat ≤ s.cfg.bufBytes)
    (h : pipeDecode s.cfg s.message = .ok out) : exec .pdec s = .next (s.complete out) := by
  show Host.Outcome.next (s.finish (pdecResult s)) = _
  rw [pdecResult, State.onMessage_fits hs, h, State.finish_ok]

/-! ## The round trip -/

theorem State.memRead_of_message {s : State} {msg : List Byte} (h : s.message = msg) {i : Nat} (hi : i < msg.length) :
    s.memRead i = msg.getD i 0 := by
  subst h
  rw [List.getD_eq_getElem?_getD, s.message_get (s.message_length ▸ hi), Option.getD_some]

theorem bufBytes_le_of_valid {c : Config} (hc : c.Valid) : c.bufBytes ≤ 2 ^ 31 := by
  obtain ⟨-, -, -, -, -, hbuf⟩ := hc
  exact hbuf

/-- PENC and then PDEC, each after the previous completion, leave the message that was there (43_pipeline.md R186). -/
theorem run_penc_pdec {s : State} {rest : List Event} (hc : s.cfg.Valid) (hb : s.busy = false)
    (hfit : encodedLength s.len.toNat ≤ s.cfg.bufBytes)
    (hev : s.events = issueOf .penc ++ [.engine] ++ issueOf .pdec ++ [.engine] ++ rest) :
    ∃ t : State, Host.Core.run core 4 s = .next t ∧ t.message = s.message ∧ t.events = rest ∧ t.err = .none ∧
      t.done = true ∧ t.busy = false := by
  have hbuf : s.cfg.bufBytes ≤ 2 ^ 31 := bufBytes_le_of_valid hc
  have henc : (pipeEncode s.cfg s.message).length = encodedLength s.len.toNat := by simp
  obtain ⟨t, hpenc, htmsg, htcfg, htev, -, -, htb⟩ :=
    run_command_completes hb hev (out := pipeEncode s.cfg s.message) (by omega) (exec_penc_of_fits hfit)
  have htfit : t.len.toNat ≤ t.cfg.bufBytes := by rwa [← t.message_length, htmsg, henc, htcfg]
  have hdec : pipeDecode t.cfg t.message = .ok s.message := by rw [htmsg, htcfg, pipeDecode_pipeEncode hc]
  obtain ⟨u, hpdec, humsg, -, huev, huerr, hudone, hub⟩ :=
    run_command_completes htb htev (out := s.message) (s.message_length ▸ s.len.isLt)
      (exec_pdec_of_decoded htfit hdec)
  exact ⟨u, (run_add 2 hpenc).trans hpdec, humsg, huev, huerr, hudone, hub⟩

/-! ## The obligation -/

/-- Settles O29: LOAD makes `msg` the message, and PENC and PDEC give it back. -/
theorem pipelineRoundTrip : Obligations.PipelineRoundTrip := by
  intro s msg rest hc hb hfit hev
  have hbuf : s.cfg.bufBytes ≤ 2 ^ 31 := bufBytes_le_of_valid hc
  have hmsg : msg.length ≤ s.cfg.bufBytes := (le_encodedLength _).trans hfit
  have hload := run_load hb hbuf hmsg
    (rest := issueOf .penc ++ [.engine] ++ issueOf .pdec ++ [.engine] ++ rest) (by simp only [hev, List.append_assoc])
  have hloaded (es : List Event) : (s.loaded msg es).message = msg := s.message_loaded es (by omega)
  obtain ⟨t, hrun, htmsg, htev, hterr, htdone, htb⟩ := run_penc_pdec (s := s.loaded msg _) hc hb
    (by rwa [← State.message_length, hloaded]) rfl
  rw [hloaded] at htmsg
  exact ⟨t, (run_add 4 hload).trans hrun, by rw [← t.message_length, htmsg],
    fun i hi => State.memRead_of_message htmsg hi, hterr, htdone, htb, htev⟩

end Sys2Proof.Machine
end

section
/-! The errors a command ends with (60_exceptions.md R201, R202, R205): the code of a result, the code of each command
over a message that fits and one that does not, and the two obligations that rest on these rules. -/

namespace Sys2Proof.Machine

/-! ## The code a result ends a command with -/

/-- `ERR` after a command with the result `r` (60_exceptions.md R203). -/
def resultCode : Except ErrCode (List Byte) → ErrCode
  | .ok _ => .none
  | .error e => e

theorem State.finish_err (r : Except ErrCode (List Byte)) (s : State) : (s.finish r).err = resultCode r := by
  cases r <;> rfl

/-- Every command ends, with the code of its result. -/
theorem exec_code (i : Instr) (s : State) : ∃ t, exec i s = .next t ∧ t.err = resultCode (commandResult i s) := by
  refine ⟨_, exec_eq i s, ?_⟩
  split
  case isTrue h => subst h; rfl
  case isFalse => exact s.finish_err _

/-! ## The codes of decoding and of the output check -/

theorem resultCode_b64Dec_of_not_whole (c : Config) {t : List Byte} (h : t.length % 4 ≠ 0) :
    resultCode (b64Dec c t) = .invalidLength :=
  congrArg resultCode (if_pos h)

/-- Over whole chunks the only failure is a character (42_base64.md R155). -/
theorem resultCode_decodeChunks (c : Config) {t : List Byte} (h : t.length % 4 = 0) :
    resultCode (decodeChunks c t) = .none ∨ resultCode (decodeChunks c t) = .invalidCharacter := by
  induction t, h using chunksInduction with
  | nil => exact .inl rfl
  | chunk c0 c1 c2 c3 rest hrest ih =>
    cases hchunk : decodeChunk c (padCount c rest.isEmpty c2 c3) c0 c1 c2 c3 with
    | none => exact .inr (congrArg resultCode (decodeChunks_of_none hchunk))
    | some bytes =>
      rw [decodeChunks_of_some hchunk]
      cases hmore : decodeChunks c rest with
      | ok more => exact .inl rfl
      | error e => rwa [hmore] at ih

theorem resultCode_b64Dec_of_whole (c : Config) {t : List Byte} (h : t.length % 4 = 0) :
    resultCode (b64Dec c t) = .none ∨ resultCode (b64Dec c t) = .invalidCharacter := by
  rw [b64Dec_of_whole_chunks h]
  exact resultCode_decodeChunks c h

/-- Only the base64 stage of the decode pipeline can fail (43_pipeline.md R185). -/
theorem resultCode_pipeDecode (c : Config) (t : List Byte) :
    resultCode (pipeDecode c t) = resultCode (b64Dec c t) := by
  unfold pipeDecode
  cases b64Dec c t <;> rfl

theorem resultCode_fitEncoded (c : Config) (n : Nat) (out : List Byte) :
    resultCode (fitEncoded c n out) = if c.bufBytes < encodedLength n then .capacity else .none := by
  unfold fitEncoded
  split <;> rfl

/-! ## The code of each command -/

/-- What a command computes from a message that fits (43_pipeline.md R187); NOP computes nothing. -/
def messageResult (c : Config) : Instr → List Byte → Except ErrCode (List Byte)
  | .nop, _ => .ok []
  | .mask, msg => .ok (maskApply c.mask msg)
  | .denc, msg => .ok (diffEnc msg)
  | .ddec, msg => .ok (diffDec msg)
  | .b64e, msg => fitEncoded c msg.length (b64Enc c msg)
  | .b64d, msg => b64Dec c msg
  | .penc, msg => fitEncoded c msg.length (pipeEncode c msg)
  | .pdec, msg => pipeDecode c msg

/-- Every command but NOP computes behind the capacity check (43_pipeline.md R182). -/
theorem commandResult_eq_onMessage {i : Instr} (hi : i ≠ .nop) (s : State) :
    commandResult i s = s.onMessage (messageResult s.cfg i) := by
  cases i with
  | nop => exact absurd rfl hi
  | _ => rfl

theorem commandResult_of_long {i : Instr} {s : State} (hi : i ≠ .nop) (h : s.cfg.bufBytes < s.len.toNat) :
    commandResult i s = .error .capacity := by
  rw [commandResult_eq_onMessage hi, State.onMessage_capacity h]

theorem commandResult_of_fits (i : Instr) {s : State} (h : s.len.toNat ≤ s.cfg.bufBytes) :
    commandResult i s = messageResult s.cfg i s.message := by
  rcases eq_or_ne i .nop with rfl | hi
  · rfl
  · rw [commandResult_eq_onMessage hi, State.onMessage_fits h]

section Kinds

variable {i : Instr} (c : Config) (msg : List Byte)

theorem resultCode_transform (hi : i = .nop ∨ i = .mask ∨ i = .denc ∨ i = .ddec) :
    resultCode (messageResult c i msg) = .none := by
  rcases hi with rfl | rfl | rfl | rfl <;> rfl

/-- B64E and PENC fail exactly when the encoded message does not fit (42_base64.md R159; 43_pipeline.md R184). -/
theorem resultCode_encoder (hi : i = .b64e ∨ i = .penc) :
    resultCode (messageResult c i msg) = if c.bufBytes < encodedLength msg.length then .capacity else .none := by
  rcases hi with rfl | rfl <;> exact resultCode_fitEncoded ..

/-- B64D and PDEC end with the code of `B64Dec` (42_base64.md R160; 43_pipeline.md R185). -/
theorem resultCode_decoder (hi : i = .b64d ∨ i = .pdec) :
    resultCode (messageResult c i msg) = resultCode (b64Dec c msg) := by
  rcases hi with rfl | rfl
  · rfl
  · exact resultCode_pipeDecode c msg

end Kinds

theorem command_kinds (i : Instr) :
    (i = .nop ∨ i = .mask ∨ i = .denc ∨ i = .ddec) ∨ (i = .b64e ∨ i = .penc) ∨ (i = .b64d ∨ i = .pdec) := by
  cases i <;> decide

/-- The table of 60_exceptions.md R202 by its columns. -/
theorem mem_possibleErrors_iff (i : Instr) (e : ErrCode) :
    e ∈ possibleErrors i ↔
      (i ≠ .nop ∧ e = .capacity) ∨ ((i = .b64d ∨ i = .pdec) ∧ (e = .invalidCharacter ∨ e = .invalidLength)) := by
  cases i <;> cases e <;> decide

theorem resultCode_messageResult_mem (c : Config) (i : Instr) (msg : List Byte) :
    resultCode (messageResult c i msg) = .none ∨ resultCode (messageResult c i msg) ∈ possibleErrors i := by
  rw [mem_possibleErrors_iff]
  rcases command_kinds i with hi | hi | hi
  · exact .inl (resultCode_transform c msg hi)
  · have hnop : i ≠ .nop := by rcases hi with rfl | rfl <;> decide
    rw [resultCode_encoder c msg hi]
    split
    · exact .inr (.inl ⟨hnop, rfl⟩)
    · exact .inl rfl
  · rw [resultCode_decoder c msg hi]
    by_cases hwhole : msg.length % 4 = 0
    · exact (resultCode_b64Dec_of_whole c hwhole).imp_right fun hcode => .inr ⟨hi, .inl hcode⟩
    · exact .inr (.inr ⟨hi, .inr (resultCode_b64Dec_of_not_whole c hwhole)⟩)

/-- Every code a command ends with is success or stands in its row (60_exceptions.md R202). -/
theorem resultCode_commandResult_mem (i : Instr) (s : State) :
    resultCode (commandResult i s) = .none ∨ resultCode (commandResult i s) ∈ possibleErrors i := by
  rcases eq_or_ne i .nop with rfl | hi
  · exact .inl rfl
  rcases lt_or_ge s.cfg.bufBytes s.len.toNat with hlong | hfits
  · rw [commandResult_of_long hi hlong, mem_possibleErrors_iff]
    exact .inr (.inl ⟨hi, rfl⟩)
  · rw [commandResult_of_fits i hfits]
    exact resultCode_messageResult_mem ..

/-- An illegal word ends at once with `ILLEGAL_COMMAND` (43_pipeline.md R180). -/
theorem State.issue_err_of_illegal {s : State} {v : Word} (hb : s.busy = false) (hv : 8 ≤ v.toNat) :
    (s.issue v).err = .illegalCommand := by
  obtain ⟨e, he⟩ := exists_decode_eq_error hv
  rw [State.issue_illegal hb he, State.raiseError_err]

/-! ## Each error happens -/

/-- The reset state with `LEN = n` and the first four bytes 0, which is no letter. -/
def zeroBytes (n : Nat) : State :=
  { State.reset with len := BitVec.ofNat 32 n, data := [(0, 0), (1, 0), (2, 0), (3, 0)] }

theorem referenceProfile_valid : referenceProfile.Valid := by decide +kernel

theorem zeroBytes_inv (n : Nat) : (zeroBytes n).Inv where
  dataWf := (by decide : Memory.wf [(0, 0), (1, 0), (2, 0), (3, 0)])
  dataBound := by simp [zeroBytes, State.reset, State.resetWith, referenceProfile]
  busyDone := nofun
  busyErr := nofun
  busyOp := nofun
  cfgValid := referenceProfile_valid

/-- One character is no whole chunk, and four are one that begins with no letter. -/
theorem resultCode_decoder_zeroBytes {i : Instr} (hi : i = .b64d ∨ i = .pdec) :
    resultCode (commandResult i (zeroBytes 1)) = .invalidLength ∧
      resultCode (commandResult i (zeroBytes 4)) = .invalidCharacter := by
  have hchar : valueAt referenceProfile (zeroBytes 4).message 0 = none := by decide
  rw [commandResult_of_fits i (by decide), commandResult_of_fits i (by decide), resultCode_decoder _ _ hi,
    resultCode_decoder _ _ hi]
  exact ⟨resultCode_b64Dec_of_not_whole _ (by decide),
    congrArg resultCode ((b64Dec_of_whole_chunks rfl).trans (decodeChunks_of_valueAt_none rfl hchar))⟩

theorem exists_resultCode_eq {i : Instr} {e : ErrCode} (h : e ∈ possibleErrors i) :
    ∃ n, resultCode (commandResult i (zeroBytes n)) = e := by
  rcases (mem_possibleErrors_iff i e).1 h with ⟨hi, rfl⟩ | ⟨hi, rfl | rfl⟩
  · exact ⟨4097, congrArg resultCode (commandResult_of_long hi (by decide))⟩
  · exact ⟨4, (resultCode_decoder_zeroBytes hi).2⟩
  · exact ⟨1, (resultCode_decoder_zeroBytes hi).1⟩

/-! ## The obligations -/

/-- Settles O32: a command ends with the code of its result, which `resultCode_commandResult_mem` bounds. -/
theorem errorsOfEachCommand : Obligations.ErrorsOfEachCommand := by
  refine ⟨fun i s => ?bound, fun i e he => ?happens, fun i => ?illegal, fun s v => State.issue_err_of_illegal⟩
  case bound =>
    obtain ⟨t, ht, hcode⟩ := exec_code i s
    exact ⟨t, ht, hcode ▸ resultCode_commandResult_mem i s⟩
  case happens =>
    obtain ⟨n, hn⟩ := exists_resultCode_eq he
    obtain ⟨t, ht, hcode⟩ := exec_code i (zeroBytes n)
    exact ⟨_, t, zeroBytes_inv n, ht, hcode.trans hn⟩
  case illegal => simp [mem_possibleErrors_iff]

/-- Settles O34: the capacity check stands before the transform, and the length check before the characters. -/
theorem errorPriority : Obligations.ErrorPriority := by
  refine ⟨fun s v => State.issue_err_of_illegal, fun i s hi hlong => ?capacity, fun i s hi hfits => ?decoder,
    fun i s hi hfits => ?encoder⟩
  all_goals
    obtain ⟨t, ht, hcode⟩ := exec_code i s
    refine ⟨t, ht, ?_⟩
    rw [hcode]
  case capacity => rw [commandResult_of_long hi hlong, resultCode]
  case decoder =>
    rw [commandResult_of_fits i hfits, resultCode_decoder _ _ hi, ← s.message_length]
    exact ⟨resultCode_b64Dec_of_not_whole s.cfg, resultCode_b64Dec_of_whole s.cfg⟩
  case encoder =>
    rw [commandResult_of_fits i hfits, resultCode_encoder _ _ hi, s.message_length]
    exact ⟨fun h => if_pos h, fun h => if_neg (Nat.not_lt.2 h)⟩

end Sys2Proof.Machine
end

section
/-! Access violations (60_exceptions.md R204): which accesses violate, what a violation does, how every event moves `AV`,
and that no command reads it. -/

namespace Sys2Proof.Machine

/-! ## The accesses that violate -/

/-- A read of the register at `off` is an access violation. -/
def State.ReadViolates (off : Nat) (s : State) : Prop :=
  off = 0x14 ∧ (s.busy = true ∨ s.cfg.bufBytes ≤ s.dptr.toNat)

/-- A write of the register at `off` is an access violation. -/
def State.WriteViolates (off : Nat) (s : State) : Prop :=
  (s.busy = true ∧ (off = 0x08 ∨ off = 0x0C ∨ off = 0x10 ∨ off = 0x14)) ∨
    (off = 0x14 ∧ s.cfg.bufBytes ≤ s.dptr.toNat)

section Resolved

variable {e : Event} {s : State} {w : Width} {off : Nat} {v : Word}

theorem violates_read (h : e.resolve s.cfg = .access (.read w off)) : Violates e s ↔ s.ReadViolates off := by
  simp only [Violates, h, State.ReadViolates]

theorem violates_write (h : e.resolve s.cfg = .access (.write w off v)) : Violates e s ↔ s.WriteViolates off := by
  simp only [Violates, h, State.WriteViolates]

theorem not_clearsAv_read (h : e.resolve s.cfg = .access (.read w off)) : ¬ ClearsAv e s := by
  simp only [ClearsAv, h, not_false_eq_true]

theorem clearsAv_write (h : e.resolve s.cfg = .access (.write w off v)) :
    ClearsAv e s ↔ off = 0x04 ∧ v.getLsbD 2 = true := by
  simp only [ClearsAv, h]

end Resolved

/-! ## What a violation does -/

/-- The state after a violating access: `AV` is set, and the port's pointer moves on when the block is idle. -/
def State.violated (s : State) : State :=
  { s with av := true, dptr := if s.busy then s.dptr else s.dptr + 1 }

theorem State.violated_of_busy {s : State} (hb : s.busy = true) : s.violated = s.setAv := by
  simp only [State.violated, State.setAv, hb, if_true]

theorem State.violated_of_idle {s : State} (hb : s.busy = false) : s.violated = s.setAv.advanceDptr := by
  simp [State.violated, State.setAv, State.advanceDptr, hb]

theorem State.hostRead_of_violates {off : Nat} {s : State} (h : s.ReadViolates off) :
    s.hostRead off = (0, s.violated) := by
  obtain ⟨rfl, hv⟩ := h
  rw [State.hostRead_ddata]
  cases hb : s.busy with
  | true => rw [State.readPort_busy hb, State.violated_of_busy hb]
  | false =>
    have hd : s.cfg.bufBytes ≤ s.dptr.toNat := hv.resolve_left (by simp [hb])
    rw [State.readPort_outOfRange hb hd, State.violated_of_idle hb]

theorem State.hostWrite_of_violates {off : Nat} (v : Word) {s : State} (h : s.WriteViolates off) :
    s.hostWrite off v = s.violated := by
  cases hb : s.busy with
  | true =>
    rw [State.violated_of_busy hb]
    have hoff : (off = 0x08 ∨ off = 0x0C ∨ off = 0x10) ∨ off = 0x14 := by
      rcases h with ⟨-, hoff⟩ | ⟨hoff, -⟩
      · tauto
      · exact .inr hoff
    rcases hoff with hoff | rfl
    · exact State.hostWrite_busy v hoff hb
    · exact State.writePort_busy v hb
  | false =>
    obtain ⟨rfl, hd⟩ := h.resolve_left (by simp [hb])
    rw [State.violated_of_idle hb]
    exact State.writePort_outOfRange v hb hd

/-! ## What moves AV -/

/-- A read that is no violation leaves `AV` as it is (20_memory.md R62, R65). -/
theorem State.hostRead_av_of_not_violates {off : Nat} {s : State} (h : ¬ s.ReadViolates off) :
    (s.hostRead off).2.av = s.av := by
  rcases regAt_cases off with ⟨rfl, -⟩ | ⟨rfl, -⟩ | ⟨rfl, -⟩ | ⟨rfl, -⟩ | ⟨rfl, -⟩ | ⟨rfl, -⟩ |
    ⟨-, -, -, -, -, -, hr⟩
  · rfl
  · rfl
  · rfl
  · rfl
  · rfl
  · rcases s.readPort_cases with ⟨hb, -⟩ | ⟨-, hd, -⟩ | ⟨-, -, hport⟩
    · exact absurd ⟨rfl, .inl hb⟩ h
    · exact absurd ⟨rfl, .inr hd⟩ h
    · rw [State.hostRead_ddata, hport, State.advanceDptr_av]
  · simp only [State.hostRead, hr]

theorem State.issue_av_of_idle (v : Word) {s : State} (hb : s.busy = false) : (s.issue v).av = s.av := by
  rcases s.issue_cases v with ⟨hbusy, -⟩ | ⟨-, i, -, h⟩ | ⟨-, e, -, h⟩
  · simp [hb] at hbusy
  · rw [h, State.acceptCommand_av]
  · rw [h, State.raiseError_av]

/-- Among the writes that are no violation only that of `STATUS` moves `AV` (20_memory.md R63, R66). -/
theorem State.hostWrite_av_of_not_violates {off : Nat} (v : Word) {s : State} (h : ¬ s.WriteViolates off) :
    (s.hostWrite off v).av = (s.av && !(decide (off = 0x04) && v.getLsbD 2)) := by
  have hidle (hoff : off = 0x08 ∨ off = 0x0C ∨ off = 0x10 ∨ off = 0x14) : s.busy = false :=
    Bool.eq_false_iff.2 fun hb => h (.inl ⟨hb, hoff⟩)
  rcases regAt_cases off with ⟨rfl, -⟩ | ⟨rfl, -⟩ | ⟨rfl, -⟩ | ⟨rfl, -⟩ | ⟨rfl, -⟩ | ⟨rfl, -⟩ |
    ⟨-, hstatus, -, -, -, -, hr⟩
  · simp
  · simp
  · simp [State.issue_av_of_idle v (hidle (by decide))]
  · simp [State.writeLen_idle v (hidle (by decide))]
  · simp [State.writeDptr_idle v (hidle (by decide))]
  · have hd : s.dptr.toNat < s.cfg.bufBytes := Nat.lt_of_not_le fun hd => h (.inr ⟨rfl, hd⟩)
    simp [State.writePort_inRange v (hidle (by decide)) hd]
  · simp [State.hostWrite, hr, hstatus]

theorem exec_av {i : Instr} {s t : State} (h : exec i s = .next t) : t.av = s.av := by
  rw [exec_eq] at h
  cases h
  split
  · rfl
  · obtain ⟨-, -, -, hav, -⟩ := State.finish_frame (commandResult i s) s
    exact hav

theorem engineTurn_av {s t : State} (h : engineTurn s = .next t) : t.av = s.av := by
  rcases engineTurn_cases h with ⟨-, ho⟩ | ⟨-, i, -, ho⟩ | ⟨-, -, ho⟩
  · cases ho
    rfl
  · exact exec_av ho.symm
  · cases ho

/-- Everything a step can have been that performs the event `e`. -/
theorem step_cons_cases {s t : State} {e : Event} {rest : List Event} (he : s.events = e :: rest)
    (h : step s = .next t) :
    (e = .engine ∧ engineTurn { s with events := rest } = .next t) ∨
      (e = .reset ∧ t = State.hardReset { s with events := rest }) ∨
      (∃ w off, e.resolve s.cfg = .access (.read w off) ∧
        t = State.record (State.hostRead off { s with events := rest })) ∨
      (∃ w off v, e.resolve s.cfg = .access (.write w off v) ∧ t = State.hostWrite off v { s with events := rest }) := by
  have hev {e' : Event} {rest' : List Event} (h' : s.events = e' :: rest') : e = e' ∧ rest = rest' :=
    List.cons.inj (he.symm.trans h')
  rcases step_cases h with ⟨hnil, -⟩ | ⟨rest', h', ht⟩ | ⟨rest', h', ht⟩ | ⟨e', w, off, rest', h', hr, -, ht⟩ |
    ⟨e', w, off, v, rest', h', hr, -, ht⟩
  · simp [he] at hnil
  all_goals obtain ⟨rfl, rfl⟩ := hev h'
  · exact .inl ⟨rfl, ht⟩
  · exact .inr (.inl ⟨rfl, ht⟩)
  · exact .inr (.inr (.inl ⟨w, off, hr, ht⟩))
  · exact .inr (.inr (.inr ⟨w, off, v, hr, ht⟩))

/-- `AV` after a step: set by a violation, and kept where the event does not clear it. -/
theorem step_av_iff {s t : State} {e : Event} {rest : List Event} (he : s.events = e :: rest)
    (h : step s = .next t) : t.av = true ↔ Violates e s ∨ (s.av = true ∧ ¬ ClearsAv e s) := by
  rcases step_cons_cases he h with ⟨rfl, ht⟩ | ⟨rfl, rfl⟩ | ⟨w, off, hr, rfl⟩ | ⟨w, off, v, hr, rfl⟩
  · rw [engineTurn_av ht]
    simp [Violates, ClearsAv, Event.resolve]
  · simp [Violates, ClearsAv, Event.resolve]
  · rw [violates_read hr]
    simp only [not_clearsAv_read hr, not_false_eq_true, and_true]
    by_cases hv : s.ReadViolates off
    · rw [State.hostRead_of_violates (s := { s with events := rest }) hv]
      exact iff_of_true rfl (.inl hv)
    · simp only [hv, false_or]
      exact Bool.eq_iff_iff.1 (State.hostRead_av_of_not_violates (s := { s with events := rest }) hv)
  · rw [violates_write hr, clearsAv_write hr]
    by_cases hv : s.WriteViolates off
    · rw [State.hostWrite_of_violates v (s := { s with events := rest }) hv]
      exact iff_of_true rfl (.inl hv)
    · rw [State.hostWrite_av_of_not_violates v (s := { s with events := rest }) hv]
      simp [hv, imp_iff_not_or]

/-! ## No command reads AV -/

theorem commandResult_withAv (i : Instr) (s : State) (b : Bool) :
    commandResult i { s with av := b } = commandResult i s := by
  cases i <;> rfl

theorem State.finish_withAv (r : Except ErrCode (List Byte)) (s : State) (b : Bool) :
    State.finish r { s with av := b } = { s.finish r with av := b } := by
  cases r <;> rfl

/-- A command run under another `AV` ends in the same state under that `AV`. -/
theorem exec_withAv {i : Instr} {s t : State} (b : Bool) (h : exec i s = .next t) :
    exec i { s with av := b } = .next { t with av := b } := by
  rw [exec_eq] at h ⊢
  cases h
  rw [commandResult_withAv, State.finish_withAv]
  split <;> rfl

/-! ## The obligation -/

/-- Settles O45: a violation is an access whose register answers with `State.violated`. -/
theorem accessViolations : Obligations.AccessViolations := by
  refine ⟨fun s t e rest => step_av_iff, fun s t he h => engineTurn_av (step_nil he ▸ h),
    fun s t e rest he hv h => ?effect, fun i s b => ?command⟩
  case effect =>
    rcases step_cons_cases he h with ⟨rfl, -⟩ | ⟨rfl, -⟩ | ⟨w, off, hr, rfl⟩ | ⟨w, off, v, hr, rfl⟩
    · exact hv.elim
    · exact hv.elim
    · rw [State.hostRead_of_violates (s := { s with events := rest }) ((violates_read hr).1 hv), hr]
      rfl
    · rw [State.hostWrite_of_violates v (s := { s with events := rest }) ((violates_write hr).1 hv), hr]
      rfl
  case command =>
    obtain ⟨t, ht⟩ := exec_next i s
    exact ⟨t, ht, exec_withAv b ht⟩

end Sys2Proof.Machine
end

section
/-! The ends of a command (43_pipeline.md R181, R182; 60_exceptions.md R203): each end by the result that leads to it,
the length of every output, what a completion leaves in `DATA`, and the obligations that say so of all eight
commands. -/

namespace Sys2Proof.Machine

/-! ## The two ends -/

section Ends

variable {i : Instr} {s t : State} {out : List Byte} {e : ErrCode}

theorem exec_of_ok (hi : i ≠ .nop) (h : commandResult i s = .ok out) : exec i s = .next (s.complete out) := by
  rw [exec_eq, if_neg hi, h, State.finish_ok]

theorem exec_of_error (h : commandResult i s = .error e) : exec i s = .next (failedWith e s) := by
  have hi : i ≠ .nop := by rintro rfl; cases h
  rw [exec_eq, if_neg hi, h]
  rfl

/-- Everything a command that answers `t` can have done. -/
theorem exec_cases (h : exec i s = .next t) :
    (i = .nop ∧ t = s.endCommand .none) ∨ (i ≠ .nop ∧ ∃ out, commandResult i s = .ok out ∧ t = s.complete out) ∨
      ∃ e, commandResult i s = .error e ∧ t = failedWith e s := by
  rcases eq_or_ne i .nop with rfl | hi
  · cases h
    exact .inl ⟨rfl, rfl⟩
  · cases hr : commandResult i s with
    | ok out =>
      rw [exec_of_ok hi hr] at h
      cases h
      exact .inr (.inl ⟨hi, out, rfl, rfl⟩)
    | error e =>
      rw [exec_of_error hr] at h
      cases h
      exact .inr (.inr ⟨e, rfl, rfl⟩)

theorem exec_of_long (hi : i ≠ .nop) (h : s.cfg.bufBytes < s.len.toNat) :
    exec i s = .next (failedWith .capacity s) :=
  exec_of_error (commandResult_of_long hi h)

theorem exec_frame (h : exec i s = .next t) : CommandFrame s t := by
  rcases exec_cases h with ⟨-, rfl⟩ | ⟨-, out, -, rfl⟩ | ⟨e, -, rfl⟩
  all_goals exact ⟨rfl, rfl, rfl, rfl, rfl, rfl, rfl, rfl⟩

theorem exec_done (h : exec i s = .next t) : t.done = true := by
  rcases exec_cases h with ⟨-, rfl⟩ | ⟨-, out, -, rfl⟩ | ⟨e, -, rfl⟩ <;> rfl

end Ends

/-! ## The length of an output -/

theorem fitEncoded_of_fits {c : Config} {n : Nat} (out : List Byte) (h : encodedLength n ≤ c.bufBytes) :
    fitEncoded c n out = .ok out :=
  if_neg (Nat.not_lt.2 h)

theorem fitEncoded_of_long {c : Config} {n : Nat} (out : List Byte) (h : c.bufBytes < encodedLength n) :
    fitEncoded c n out = .error .capacity :=
  if_pos h

theorem fitEncoded_length {c : Config} {n : Nat} {out r : List Byte} (hout : out.length = encodedLength n)
    (h : fitEncoded c n out = .ok r) : r.length ≤ c.bufBytes := by
  rcases lt_or_ge c.bufBytes (encodedLength n) with hlong | hfits
  · rw [fitEncoded_of_long out hlong] at h
    cases h
  · rw [fitEncoded_of_fits out hfits] at h
    cases h
    rwa [hout]

theorem pipeDecode_of_error {c : Config} {t : List Byte} {e : ErrCode} (h : b64Dec c t = .error e) :
    pipeDecode c t = .error e := by
  simp only [pipeDecode, h]

theorem pipeDecode_length {c : Config} {t out : List Byte} (h : pipeDecode c t = .ok out) :
    out.length ≤ t.length := by
  cases hd : b64Dec c t with
  | ok r =>
    rw [pipeDecode_of_decoded hd] at h
    cases h
    simpa using b64Dec_length hd
  | error e =>
    rw [pipeDecode_of_error hd] at h
    cases h

/-- The output a command computes from a message that fits, fits as well: the transforms keep the length, decoding does
not lengthen, and encoding checks (43_pipeline.md R182). -/
theorem messageResult_length {c : Config} {i : Instr} {msg out : List Byte} (hmsg : msg.length ≤ c.bufBytes)
    (h : messageResult c i msg = .ok out) : out.length ≤ c.bufBytes := by
  cases i with
  | nop => cases h; exact Nat.zero_le _
  | mask => cases h; rwa [maskApply_length]
  | denc => cases h; rwa [diffEnc_length]
  | ddec => cases h; rwa [diffDec_length]
  | b64e => exact fitEncoded_length (b64Enc_length c msg) h
  | b64d => exact (b64Dec_length h).trans hmsg
  | penc => exact fitEncoded_length (pipeEncode_length c msg) h
  | pdec => exact (pipeDecode_length h).trans hmsg

theorem commandResult_length {i : Instr} {s : State} {out : List Byte} (h : commandResult i s = .ok out) :
    out.length ≤ s.cfg.bufBytes := by
  rcases eq_or_ne i .nop with rfl | hi
  · cases h
    exact Nat.zero_le _
  rcases lt_or_ge s.cfg.bufBytes s.len.toNat with hlong | hfits
  · rw [commandResult_of_long hi hlong] at h
    cases h
  · rw [commandResult_of_fits i hfits] at h
    exact messageResult_length (by rwa [s.message_length]) h

/-! ## What a command stores -/

theorem storedBytes_of_ok {i : Instr} {s : State} {out : List Byte} (h : commandResult i s = .ok out) :
    storedBytes i s = out := by
  cases i <;> simp_all only [storedBytes, commandResult, Except.ok.injEq]

theorem storedBytes_of_error {i : Instr} {s : State} {e : ErrCode} (h : commandResult i s = .error e) :
    storedBytes i s = [] := by
  cases i <;> simp_all only [storedBytes, commandResult, reduceCtorEq]

theorem storedBytes_length (i : Instr) (s : State) : (storedBytes i s).length ≤ s.cfg.bufBytes := by
  cases h : commandResult i s with
  | ok out =>
    rw [storedBytes_of_ok h]
    exact commandResult_length h
  | error e =>
    rw [storedBytes_of_error h]
    exact Nat.zero_le _

theorem exec_data {i : Instr} {s t : State} (h : exec i s = .next t) :
    t.data = Memory.putAll 0 (storedBytes i s) s.data := by
  rcases exec_cases h with ⟨rfl, rfl⟩ | ⟨-, out, hr, rfl⟩ | ⟨e, hr, rfl⟩
  · rfl
  · rw [storedBytes_of_ok hr, State.complete_data]
  · rw [storedBytes_of_error hr]
    rfl

/-- A command leaves the `DATA` of a completion with the bytes it stores, none of them on a failure. -/
theorem exec_memRead {i : Instr} {s t : State} (h : exec i s = .next t) :
    t.memRead = (s.complete (storedBytes i s)).memRead :=
  State.memRead_congr (exec_data h) (exec_frame h).draws

/-- A command whose output is as long as its message leaves `LEN` as it is (MASK, DENC, DDEC). -/
theorem exec_len_of_length_eq {i : Instr} {s t : State}
    (hkeep : ∀ out, commandResult i s = .ok out → out.length = s.len.toNat) (h : exec i s = .next t) :
    t.len = s.len := by
  rcases exec_cases h with ⟨-, rfl⟩ | ⟨-, out, hr, rfl⟩ | ⟨e, -, rfl⟩
  · rfl
  · exact State.complete_len_of_length_eq (hkeep out hr)
  · rfl

theorem commandResult_transform_length {i : Instr} (hi : i = .mask ∨ i = .denc ∨ i = .ddec) {s : State}
    {out : List Byte} (h : commandResult i s = .ok out) : out.length = s.len.toNat := by
  have hnop : i ≠ .nop := by rcases hi with rfl | rfl | rfl <;> decide
  rcases lt_or_ge s.cfg.bufBytes s.len.toNat with hlong | hfits
  · rw [commandResult_of_long hnop hlong] at h
    cases h
  · rw [commandResult_of_fits i hfits] at h
    rcases hi with rfl | rfl | rfl <;> cases h <;> simp

/-! ## What a completion leaves -/

/-- `complete(out)` by the bytes of an output that a 32-bit `LEN` can count (43_pipeline.md R181). -/
theorem completed_of_bytes {s : State} {out : List Byte} {n : Nat} {f : Nat → Byte} (hn : n < 2 ^ 32)
    (hlen : out.length = n) (hbytes : ∀ i, i < n → out[i]? = some (f i)) : Completed s (s.complete out) n f where
  err := rfl
  busy := rfl
  done := rfl
  len := by rw [State.complete_len, hlen, BitVec.toNat_ofNat, Nat.mod_eq_of_lt hn]
  inside i hi := by
    have hi' : i < out.length := hlen ▸ hi
    rw [State.memRead_complete, dif_pos hi', ← Option.some_inj, ← List.getElem?_eq_getElem hi', hbytes i hi]
  outside i hi := by rw [State.memRead_complete, dif_neg (by omega)]
  frame := ⟨rfl, rfl, rfl, rfl, rfl, rfl, rfl, rfl⟩

theorem completed_complete {s : State} {out : List Byte} (h : out.length < 2 ^ 32) :
    Completed s (s.complete out) out.length (fun i => out.getD i 0) :=
  completed_of_bytes h rfl fun i hi => by rw [List.getD_eq_getElem out 0 hi, List.getElem?_eq_getElem hi]

/-! ## Which commands fail with CAPACITY -/

/-- Only the encoders can find that a message that fits has an output that does not. -/
theorem commandResult_ne_capacity {i : Instr} {s : State} (hb64e : i ≠ .b64e) (hpenc : i ≠ .penc)
    (hs : s.len.toNat ≤ s.cfg.bufBytes) : resultCode (commandResult i s) ≠ .capacity := by
  rw [commandResult_of_fits i hs]
  rcases command_kinds i with hi | hi | hi
  · rw [resultCode_transform _ _ hi]
    decide
  · exact absurd hi (by simp [hb64e, hpenc])
  · rw [resultCode_decoder _ _ hi]
    by_cases hwhole : s.message.length % 4 = 0
    · rcases resultCode_b64Dec_of_whole s.cfg hwhole with h | h <;> simp [h]
    · simp [resultCode_b64Dec_of_not_whole s.cfg hwhole]

/-- B64E and PENC fail with `CAPACITY` when the message or its encoding does not fit (42_base64.md R159; 43_pipeline.md
R182, R184). -/
theorem exec_encoder_of_long {i : Instr} {s : State} (hi : i = .b64e ∨ i = .penc)
    (h : s.cfg.bufBytes < encodedLength s.len.toNat) : exec i s = .next (failedWith .capacity s) := by
  have hnop : i ≠ .nop := by rcases hi with rfl | rfl <;> decide
  rcases lt_or_ge s.cfg.bufBytes s.len.toNat with hlong | hfits
  · exact exec_of_long hnop hlong
  · apply exec_of_error
    rw [← s.message_length] at h
    rw [commandResult_of_fits i hfits]
    rcases hi with rfl | rfl <;> exact fitEncoded_of_long _ h

/-! ## The obligations -/

/-- Settles O30: the output function of a command is `messageResult`. -/
theorem completeWritesTheOutput : Obligations.CompleteWritesTheOutput := by
  refine ⟨fun s out hout hbuf => completed_complete (by omega),
    fun i hi => ⟨fun c => messageResult c i, fun s hs => ?_⟩⟩
  simp only [← commandResult_of_fits i hs]
  exact ⟨fun out h => ⟨commandResult_length h, exec_of_ok hi h⟩, fun e => exec_of_error⟩

/-- Settles O31: the check of `LEN`, the check of the encoded length, and no other. -/
theorem capacityRule : Obligations.CapacityRule := by
  refine ⟨fun i s => exec_of_long, fun i s => exec_encoder_of_long, fun i s hb64e hpenc hs =>
    ⟨storedBytes_length i s, ?_⟩⟩
  obtain ⟨t, ht, hcode⟩ := exec_code i s
  exact ⟨t, ht, hcode ▸ commandResult_ne_capacity hb64e hpenc hs⟩

/-- Settles O33: the only end with an error is `failedWith`, and an illegal word raises its error with `BUSY = 0`. -/
theorem failureIsAllOrNothing : Obligations.FailureIsAllOrNothing := by
  refine ⟨fun i s t h herr => ?_, fun s v hb hv => ?_⟩
  · rcases exec_cases h with ⟨-, rfl⟩ | ⟨-, out, -, rfl⟩ | ⟨e, -, rfl⟩
    · exact absurd rfl herr
    · exact absurd rfl herr
    · rfl
  · obtain ⟨e, he⟩ := exists_decode_eq_error hv
    rw [State.issue_illegal hb he]
    simp only [State.raiseError, State.endCommand, hb]

/-- Settles O35: `DATA` after a command is that of a completion with `storedBytes`. -/
theorem frameOfEveryCommand : Obligations.FrameOfEveryCommand := by
  intro i s t h
  refine ⟨exec_frame h, exec_busy h, exec_done h, fun a ha => ?above, fun a ha => ?below, fun hi => ?noOutput,
    fun hi => exec_len_of_length_eq (fun out => commandResult_transform_length hi) h⟩
  case above => rw [exec_memRead h, State.memRead_complete, dif_neg (Nat.not_lt.2 ha)]
  case below => rw [exec_memRead h, State.memRead_complete, dif_pos ha]
  case noOutput =>
    rcases exec_cases h with ⟨-, rfl⟩ | ⟨hnop, out, -, rfl⟩ | ⟨e, -, rfl⟩
    · rfl
    · exact absurd hi (by simp [hnop])
    · rfl

end Sys2Proof.Machine
end

section
/-! What one step changes (10_state.md R24, R30, R33; 60_exceptions.md R200; 70_reset_and_hazards.md R246): every
effect of a host access by a case of its own, then the parameters, the events and `DATA` after a step, the invariant,
and the obligations that rest on them. -/

namespace Sys2Proof.Machine

/-! ## The effects of a host access -/

/-- The effects a write of `v` at `off` can have, one for each row of 20_memory.md R63, R66 and path of 43_pipeline.md
R180, with the access violations (60_exceptions.md R204) in one. -/
inductive WriteEffect (off : Nat) (v : Word) (s : State) : State → Prop
  | ctrl (hoff : off = 0x00) : WriteEffect off v s (s.writeCtrl v)
  | status (hoff : off = 0x04) : WriteEffect off v s (s.writeStatus v)
  | accept (hoff : off = 0x08) (hb : s.busy = false) (i : Instr) (hv : v = encode i) :
    WriteEffect off v s (s.acceptCommand (opcode i))
  | illegal (hoff : off = 0x08) (hb : s.busy = false) (hv : 8 ≤ v.toNat) :
    WriteEffect off v s (s.raiseError .illegalCommand)
  | len (hoff : off = 0x0C) (hb : s.busy = false) : WriteEffect off v s { s with len := v }
  | dptr (hoff : off = 0x10) (hb : s.busy = false) : WriteEffect off v s { s with dptr := v }
  | port (hoff : off = 0x14) (hb : s.busy = false) (hd : s.dptr.toNat < s.cfg.bufBytes) :
    WriteEffect off v s (s.memWrite s.dptr.toNat (v.setWidth 8)).advanceDptr
  | violation (hv : s.WriteViolates off) : WriteEffect off v s s.violated
  | reserved (hr : regAt off = none) : WriteEffect off v s s

theorem State.hostWrite_effect (off : Nat) (v : Word) (s : State) : WriteEffect off v s (s.hostWrite off v) := by
  by_cases hv : s.WriteViolates off
  · rw [State.hostWrite_of_violates v hv]
    exact .violation hv
  have hidle (hoff : off = 0x08 ∨ off = 0x0C ∨ off = 0x10 ∨ off = 0x14) : s.busy = false :=
    Bool.eq_false_iff.2 fun hb => hv (.inl ⟨hb, hoff⟩)
  rcases regAt_cases off with ⟨rfl, -⟩ | ⟨rfl, -⟩ | ⟨rfl, -⟩ | ⟨rfl, -⟩ | ⟨rfl, -⟩ | ⟨rfl, -⟩ |
    ⟨-, -, -, -, -, -, hr⟩
  · exact .ctrl rfl
  · exact .status rfl
  · rw [State.hostWrite_cmd]
    have hb := hidle (by decide)
    rcases s.issue_cases v with ⟨hbusy, -⟩ | ⟨-, i, hd, h⟩ | ⟨-, e, hd, h⟩
    · simp [hb] at hbusy
    · obtain rfl := (decode_eq_ok_iff v i).1 hd
      rw [h, opcField_encode]
      exact .accept rfl hb i rfl
    · rw [h]
      exact .illegal rfl hb ((decode_eq_error_iff v).1 ⟨e, hd⟩)
  · rw [State.hostWrite_len, State.writeLen_idle v (hidle (by decide))]
    exact .len rfl (hidle (by decide))
  · rw [State.hostWrite_dptr, State.writeDptr_idle v (hidle (by decide))]
    exact .dptr rfl (hidle (by decide))
  · have hd : s.dptr.toNat < s.cfg.bufBytes := Nat.lt_of_not_le fun hd => hv (.inr ⟨rfl, hd⟩)
    rw [State.hostWrite_ddata, State.writePort_inRange v (hidle (by decide)) hd]
    exact .port rfl (hidle (by decide)) hd
  · simp only [State.hostWrite, hr]
    exact .reserved hr

/-- A host read changes at most `AV`, `DPTR` and the host's own record (20_memory.md R62, R65). -/
theorem State.record_hostRead (off : Nat) (s : State) :
    ∃ av dptr results, State.record (s.hostRead off) = { s with av := av, dptr := dptr, results := results } := by
  refine ⟨(s.hostRead off).2.av, (s.hostRead off).2.dptr, (s.hostRead off).1 :: s.results, ?_⟩
  rcases s.hostRead_cases off with h | h | h | h <;> simp [State.record, h]

/-! ## The parameters and the events after a step -/

/-- Idle or not, the engine's turn touches nothing that no command touches. -/
theorem engineTurn_frame {s t : State} (h : engineTurn s = .next t) : CommandFrame s t := by
  rcases engineTurn_cases h with ⟨-, ho⟩ | ⟨-, i, -, ho⟩ | ⟨-, -, ho⟩
  · cases ho
    exact ⟨rfl, rfl, rfl, rfl, rfl, rfl, rfl, rfl⟩
  · exact exec_frame ho.symm
  · cases ho

theorem step_cfg {s t : State} (h : step s = .next t) : t.cfg = s.cfg := by
  rcases step_cases h with ⟨-, he⟩ | ⟨rest, -, he⟩ | ⟨rest, -, rfl⟩ | ⟨e, w, off, rest, -, -, -, rfl⟩ |
    ⟨e, w, off, v, rest, -, -, -, rfl⟩
  · exact (engineTurn_frame he).cfg
  · exact (engineTurn_frame he).cfg
  · rfl
  · obtain ⟨a, p, r, hread⟩ := State.record_hostRead off { s with events := rest }
    rw [hread]
  · exact State.hostWrite_cfg ..

theorem State.hostWrite_events (off : Nat) (v : Word) (s : State) : (s.hostWrite off v).events = s.events := by
  have heffect := s.hostWrite_effect off v
  generalize s.hostWrite off v = t at heffect ⊢
  cases heffect <;> rfl

/-- A step takes its event and leaves those after it. -/
theorem step_events {s t : State} {e : Event} {rest : List Event} (he : s.events = e :: rest)
    (h : step s = .next t) : t.events = rest := by
  rcases step_cons_cases he h with ⟨-, ht⟩ | ⟨-, rfl⟩ | ⟨w, off, -, rfl⟩ | ⟨w, off, v, -, rfl⟩
  · exact (engineTurn_frame ht).events
  · rfl
  · obtain ⟨a, p, r, hread⟩ := State.record_hostRead off { s with events := rest }
    rw [hread]
  · exact State.hostWrite_events ..

/-! ## DATA after a step -/

theorem State.hostWrite_data_cases (off : Nat) (v : Word) (s : State) :
    (s.hostWrite off v).data = s.data ∨
      (off = 0x14 ∧ s.busy = false ∧ s.dptr.toNat < s.cfg.bufBytes ∧
        (s.hostWrite off v).data = Memory.put s.dptr.toNat (v.setWidth 8) s.data) := by
  have heffect := s.hostWrite_effect off v
  generalize s.hostWrite off v = t at heffect ⊢
  cases heffect with
  | port hoff hb hd => exact .inr ⟨hoff, hb, hd, rfl⟩
  | _ => exact .inl rfl

theorem engineTurn_data_cases {s t : State} (h : engineTurn s = .next t) :
    t.data = s.data ∨ (s.busy = true ∧ ∃ out : List Byte, out.length ≤ s.cfg.bufBytes ∧
      t.data = Memory.putAll 0 out s.data) := by
  rcases engineTurn_cases h with ⟨-, ho⟩ | ⟨hb, i, -, ho⟩ | ⟨-, -, ho⟩
  · cases ho
    exact .inl rfl
  · exact .inr ⟨hb, _, storedBytes_length i s, exec_data ho.symm⟩
  · cases ho

/-- `DATA` after a step: as before, with one byte written by the port, with an output written by the engine, or
unwritten by a reset (10_state.md R30). -/
theorem step_data_cases {s t : State} (h : step s = .next t) :
    t.data = s.data ∨
      (∃ e v rest, s.events = e :: rest ∧ e.resolve s.cfg = .access (.write .word 0x14 v) ∧ s.busy = false ∧
        s.dptr.toNat < s.cfg.bufBytes ∧ t.data = Memory.put s.dptr.toNat (v.setWidth 8) s.data) ∨
      (s.busy = true ∧ (s.events = [] ∨ ∃ rest, s.events = .engine :: rest) ∧
        ∃ out : List Byte, out.length ≤ s.cfg.bufBytes ∧ t.data = Memory.putAll 0 out s.data) ∨
      (∃ rest, s.events = .reset :: rest ∧ t.data = []) := by
  rcases step_cases h with ⟨hev, he⟩ | ⟨rest, hev, he⟩ | ⟨rest, hev, rfl⟩ | ⟨e, w, off, rest, -, -, -, rfl⟩ |
    ⟨e, w, off, v, rest, hev, hr, hw, rfl⟩
  · rcases engineTurn_data_cases he with hdata | ⟨hb, hout⟩
    · exact .inl hdata
    · exact .inr (.inr (.inl ⟨hb, .inl hev, hout⟩))
  · rcases engineTurn_data_cases he with hdata | ⟨hb, hout⟩
    · exact .inl hdata
    · exact .inr (.inr (.inl ⟨hb, .inr ⟨rest, hev⟩, hout⟩))
  · exact .inr (.inr (.inr ⟨rest, hev, rfl⟩))
  · obtain ⟨a, p, r, hread⟩ := State.record_hostRead off { s with events := rest }
    exact .inl (by rw [hread])
  · rcases State.hostWrite_data_cases off v { s with events := rest } with hdata | ⟨rfl, hb, hd, hdata⟩
    · exact .inl hdata
    · obtain rfl : w = .word := hw.1
      exact .inr (.inl ⟨e, v, rest, hev, hr, hb, hd, hdata⟩)

/-- Every way a step changes `DATA` keeps its one form and lists only indices of the buffer. -/
theorem step_data_ok {s t : State} (hwf : Memory.wf s.data) (hbound : ∀ x ∈ s.data, x.1 < s.cfg.bufBytes)
    (h : step s = .next t) : Memory.wf t.data ∧ ∀ x ∈ t.data, x.1 < s.cfg.bufBytes := by
  rcases step_data_cases h with hdata | ⟨e, v, rest, -, -, -, hd, hdata⟩ | ⟨-, -, out, hout, hdata⟩ |
    ⟨rest, -, hdata⟩
  all_goals rw [hdata]
  · exact ⟨hwf, hbound⟩
  · exact ⟨Memory.put_wf _ _ hwf, fun x hx => (Memory.mem_put hx).elim (fun hx => hx ▸ hd) (hbound x)⟩
  · exact ⟨Memory.putAll_wf _ _ hwf, fun x hx => (Memory.mem_putAll hx).elim (by omega) (hbound x)⟩
  · exact ⟨List.Pairwise.nil, nofun⟩

/-! ## The pending opcode -/

/-- While a command is pending, `PEND_OP` is one of the eight opcodes (43_pipeline.md R187). -/
def State.OpLegal (s : State) : Prop := s.busy = true → s.pendOp.toNat < 8

theorem State.OpLegal.of_idle {s : State} (h : s.busy = false) : s.OpLegal := fun hb => by simp [h] at hb

theorem opcode_lt_eight (i : Instr) : (opcode i).toNat < 8 := by cases i <;> decide

/-- Only an accepted issue writes `PEND_OP`, with the opcode of a command. -/
theorem State.OpLegal.hostWrite {s : State} (hs : s.OpLegal) (off : Nat) (v : Word) : (s.hostWrite off v).OpLegal := by
  have heffect := s.hostWrite_effect off v
  generalize s.hostWrite off v = t at heffect ⊢
  cases heffect with
  | accept _ _ i => exact fun _ => opcode_lt_eight i
  | illegal => exact .of_idle rfl
  | _ => exact hs

theorem State.OpLegal.engineTurn {s t : State} (hs : s.OpLegal) (h : engineTurn s = .next t) : t.OpLegal := by
  rcases engineTurn_cases h with ⟨-, ho⟩ | ⟨-, i, -, ho⟩ | ⟨-, -, ho⟩
  · cases ho
    exact hs
  · exact .of_idle (exec_busy ho.symm)
  · cases ho

theorem State.OpLegal.step {s t : State} (hs : s.OpLegal) (h : step s = .next t) : t.OpLegal := by
  have hrest (rest : List Event) : State.OpLegal { s with events := rest } := hs
  rcases step_cases h with ⟨-, he⟩ | ⟨rest, -, he⟩ | ⟨rest, -, rfl⟩ | ⟨e, w, off, rest, -, -, -, rfl⟩ |
    ⟨e, w, off, v, rest, -, -, -, rfl⟩
  · exact hs.engineTurn he
  · exact (hrest rest).engineTurn he
  · exact .of_idle rfl
  · obtain ⟨a, p, r, hread⟩ := State.record_hostRead off { s with events := rest }
    rw [hread]
    exact hs
  · exact (hrest rest).hostWrite off v

/-! ## The invariant -/

theorem State.Inv.busyClear {s : State} (hs : s.Inv) : s.BusyClear := fun hb => ⟨hs.busyDone hb, hs.busyErr hb⟩

theorem State.Inv.step {s t : State} (hs : s.Inv) (h : step s = .next t) : t.Inv := by
  obtain ⟨hwf, hbound⟩ := step_data_ok hs.dataWf hs.dataBound h
  have hclear : t.BusyClear := hs.busyClear.step h
  have hop : t.OpLegal := State.OpLegal.step hs.busyOp h
  rw [← step_cfg h] at hbound
  exact ⟨hwf, hbound, fun hb => (hclear hb).1, fun hb => (hclear hb).2, hop, step_cfg h ▸ hs.cfgValid⟩

theorem resetWith_inv {c : Config} (hc : c.Valid) : (State.resetWith c).Inv :=
  ⟨List.Pairwise.nil, nofun, nofun, nofun, nofun, hc⟩

/-! ## No step faults -/

/-- The engine's turn is total where `PEND_OP` is legal. -/
theorem engineTurn_next {s : State} (hs : s.OpLegal) : ∃ t, engineTurn s = .next t := by
  cases hb : s.busy with
  | false => exact ⟨s, engineTurn_idle hb⟩
  | true =>
    have hfetch : s.fetch.toNat = s.pendOp.toNat := by
      rw [State.fetch, BitVec.toNat_setWidth, Nat.mod_eq_of_lt (by omega)]
    have hlt : s.fetch.toNat < 8 := hfetch ▸ hs hb
    obtain ⟨i, hi⟩ := exists_encode_eq hlt
    obtain ⟨t, ht⟩ := exec_next i s
    exact ⟨t, (engineTurn_busy hb (hi ▸ decode_encode i)).trans ht⟩

theorem hostAccess_next {a : Access} (h : a.WellFormed) (s : State) : ∃ t, hostAccess a s = .next t := by
  cases a with
  | read w off => exact ⟨_, hostAccess_read h⟩
  | write w off v => exact ⟨_, hostAccess_write h⟩

/-- An event answers a next state, or it is no part of the interface and is refused. -/
theorem runEvent_next_or_refused {s : State} (hs : s.OpLegal) (e : Event) :
    (∃ t, runEvent e s = .next t) ∨
      (¬ e.Admitted s.cfg ∧ runEvent e s = .refused .accessOutsideInterface) := by
  unfold Event.Admitted
  cases hr : e.resolve s.cfg with
  | access a =>
    rw [runEvent_access hr]
    by_cases hw : a.WellFormed
    · exact .inl (hostAccess_next hw s)
    · exact .inr ⟨hw, hostAccess_outside hw⟩
  | bus a => exact .inr ⟨not_false, runEvent_bus hr⟩
  | engine =>
    obtain rfl := resolve_engine hr
    exact .inl (engineTurn_next hs)
  | reset =>
    obtain rfl := resolve_reset hr
    exact .inl ⟨_, rfl⟩

theorem step_next_or_refused {s : State} (hs : s.OpLegal) :
    (∃ t, step s = .next t) ∨
      ((∃ e rest, s.events = e :: rest ∧ ¬ e.Admitted s.cfg) ∧ step s = .refused .accessOutsideInterface) := by
  cases he : s.events with
  | nil =>
    rw [step_nil he]
    exact .inl (engineTurn_next hs)
  | cons e rest =>
    rw [step_cons he]
    exact (runEvent_next_or_refused (s := { s with events := rest }) hs e).imp_right fun ⟨hadm, href⟩ =>
      ⟨⟨e, rest, rfl, hadm⟩, href⟩

theorem step_next_of_admitted {s : State} (hs : s.OpLegal)
    (hadm : ∀ e rest, s.events = e :: rest → e.Admitted s.cfg) : ∃ t, step s = .next t :=
  (step_next_or_refused hs).resolve_right fun ⟨⟨e, rest, he, hnot⟩, _⟩ => hnot (hadm e rest he)

/-- With no event left, the step runs the pending command to its end. -/
theorem step_nil_busy {s t : State} (he : s.events = []) (hb : s.busy = true) (h : step s = .next t) :
    t.busy = false := by
  rw [step_nil he] at h
  rcases engineTurn_cases h with ⟨hidle, -⟩ | ⟨-, i, -, ho⟩ | ⟨-, -, ho⟩
  · simp [hb] at hidle
  · exact exec_busy ho.symm
  · cases ho

/-- By induction on the events still to come: each step takes one, and when none is left the engine moves. -/
theorem run_completes {s : State} {es : List Event} (hs : s.Inv) (hev : s.events = es)
    (hadm : ∀ e ∈ es, e.Admitted s.cfg) :
    ∃ k t, k ≤ es.length + 1 ∧ Host.Core.run core k s = .next t ∧ t.busy = false := by
  induction es generalizing s with
  | nil =>
    cases hb : s.busy with
    | false => exact ⟨0, s, Nat.zero_le _, run_zero s, hb⟩
    | true =>
      obtain ⟨t, ht⟩ := step_next_of_admitted hs.busyOp fun e rest he => by simp [hev] at he
      exact ⟨1, t, le_rfl, run_next 0 ht, step_nil_busy hev hb ht⟩
  | cons e es ih =>
    obtain ⟨t, ht⟩ := step_next_of_admitted hs.busyOp fun e' rest he => by
      obtain ⟨rfl, -⟩ := List.cons.inj (hev.symm.trans he)
      exact hadm e List.mem_cons_self
    obtain ⟨k, u, hk, hrun, hu⟩ := ih (hs.step ht) (step_events hev ht) fun e' he' =>
      step_cfg ht ▸ hadm e' (List.mem_cons_of_mem e he')
    exact ⟨k + 1, u, Nat.succ_le_succ hk, (run_next k ht).trans hrun, hu⟩

/-! ## The obligations -/

/-- Settles O51: `DATA` by the ways a step changes it, `BUSY` with `DONE` and `ERR` by `State.BusyClear.step`, and
`PEND_OP` by `State.OpLegal.step`. -/
theorem everyStepKeepsTheInvariant : Obligations.EveryStepKeepsTheInvariant := fun _ _ => State.Inv.step

/-- Settles O52: nothing is listed and nothing is pending after a reset. -/
theorem resetMeetsTheInvariant : Obligations.ResetMeetsTheInvariant :=
  ⟨fun _ => resetWith_inv, resetWith_inv referenceProfile_valid⟩

/-- Settles O54, by the cases of a step. -/
theorem noStepChangesTheParameters : Obligations.NoStepChangesTheParameters := fun _ _ => step_cfg

/-- Settles O55: a step answers a next state or is refused, and it is refused only for an event outside the
interface. -/
theorem blockNeverStops : Obligations.BlockNeverStops := by
  refine fun s hs => ⟨fun f hf => ?_, step_next_of_admitted hs.busyOp⟩
  rcases step_next_or_refused hs.busyOp with ⟨t, ht⟩ | ⟨-, ht⟩
  · rw [ht] at hf
    cases hf
  · rw [ht] at hf
    cases hf

/-- Settles O56, by the ways a step changes `DATA`. -/
theorem dataChangesOnlyByPortEngineReset : Obligations.DataChangesOnlyByPortEngineReset := by
  intro s t h hne
  rcases step_data_cases h with hdata | ⟨e, v, rest, hev, hr, hb, hd, -⟩ | ⟨hb, hev, -⟩ | ⟨rest, hev, -⟩
  · exact absurd hdata hne
  · exact .inl ⟨e, v, rest, hev, hr, hb, hd⟩
  · exact .inr (.inl ⟨hb, hev⟩)
  · exact .inr (.inr ⟨rest, hev⟩)

/-- Settles O57: the run of `run_completes` is one from any state of the invariant, busy or not. -/
theorem pendingCommandCompletes : Obligations.PendingCommandCompletes := fun _ hs _ hadm =>
  run_completes hs rfl hadm

end Sys2Proof.Machine
end

section
/-! Host accesses around a command (20_memory.md R70; 60_exceptions.md R206 to R208; 70_reset_and_hazards.md R240,
R241): which accesses are idempotent, what clears `DONE` and with it `IRQ`, what an access made while busy can move, and
that a command run after it does the same. -/

namespace Sys2Proof.Machine

/-! ## Reads without side effects, and idempotent writes -/

theorem State.hostRead_of_ne_ddata {off : Nat} (h : off ≠ 0x14) (s : State) : (s.hostRead off).2 = s := by
  rcases regAt_cases off with ⟨rfl, -⟩ | ⟨rfl, -⟩ | ⟨rfl, -⟩ | ⟨rfl, -⟩ | ⟨rfl, -⟩ | ⟨rfl, -⟩ |
    ⟨-, -, -, -, -, -, hr⟩
  · rfl
  · rfl
  · rfl
  · rfl
  · rfl
  · exact absurd rfl h
  · simp only [State.hostRead, hr]

theorem State.writeStatus_writeStatus (v : Word) (s : State) : (s.writeStatus v).writeStatus v = s.writeStatus v := by
  simp [State.writeStatus]

theorem State.setAv_setAv (s : State) : s.setAv.setAv = s.setAv := rfl

theorem State.writeLen_writeLen (v : Word) (s : State) : (s.writeLen v).writeLen v = s.writeLen v := by
  cases hb : s.busy <;> simp [State.writeLen, hb, State.setAv_setAv]

theorem State.writeDptr_writeDptr (v : Word) (s : State) : (s.writeDptr v).writeDptr v = s.writeDptr v := by
  cases hb : s.busy <;> simp [State.writeDptr, hb, State.setAv_setAv]

/-! ## DONE after a step -/

section Resolved

variable {e : Event} {s : State} {w : Width} {off : Nat} {v : Word}

theorem clearsDone_write (h : e.resolve s.cfg = .access (.write w off v)) :
    ClearsDone e s ↔ (off = 0x04 ∧ v.getLsbD 1 = true) ∨ (off = 0x08 ∧ s.busy = false ∧ v.toNat < 8) := by
  simp only [ClearsDone, h]

theorem not_clearsDone_read (h : e.resolve s.cfg = .access (.read w off)) : ¬ ClearsDone e s := by
  simp only [ClearsDone, h, not_false_eq_true]

end Resolved

theorem encode_lt_eight (i : Instr) : (encode i).toNat < 8 := by cases i <;> decide

/-- Among the writes those of `STATUS` and `CMD` can clear `DONE` (60_exceptions.md R208). -/
theorem State.hostWrite_done_iff (off : Nat) (v : Word) {s : State} (hdone : s.done = true) :
    (s.hostWrite off v).done = false ↔
      (off = 0x04 ∧ v.getLsbD 1 = true) ∨ (off = 0x08 ∧ s.busy = false ∧ v.toNat < 8) := by
  have heffect := s.hostWrite_effect off v
  generalize s.hostWrite off v = t at heffect ⊢
  cases heffect with
  | accept hoff hb i hv => simp [hoff, hb, hv, encode_lt_eight]
  | illegal hoff hb hv => simp [hoff, Nat.not_lt.2 hv]
  | violation hv =>
    refine iff_of_false (by simp [State.violated, hdone]) ?_
    rintro (⟨rfl, -⟩ | ⟨rfl, hb, -⟩)
    · simp [State.WriteViolates] at hv
    · simp [State.WriteViolates, hb] at hv
  | reserved hr =>
    refine iff_of_false (by simp [hdone]) ?_
    rintro (⟨rfl, -⟩ | ⟨rfl, -, -⟩) <;> cases hr
  | _ hoff => simp [hdone, hoff]

theorem engineTurn_done {s t : State} (hdone : s.done = true) (h : engineTurn s = .next t) : t.done = true := by
  rcases engineTurn_cases h with ⟨-, ho⟩ | ⟨-, i, -, ho⟩ | ⟨-, -, ho⟩
  · cases ho
    exact hdone
  · exact exec_done ho.symm
  · cases ho

theorem step_done_iff {s t : State} {e : Event} {rest : List Event} (he : s.events = e :: rest)
    (hdone : s.done = true) (h : step s = .next t) : t.done = false ↔ ClearsDone e s := by
  rcases step_cons_cases he h with ⟨rfl, ht⟩ | ⟨rfl, rfl⟩ | ⟨w, off, hr, rfl⟩ | ⟨w, off, v, hr, rfl⟩
  · rw [engineTurn_done (s := { s with events := rest }) hdone ht]
    simp [ClearsDone, Event.resolve]
  · simp [ClearsDone, Event.resolve]
  · obtain ⟨a, p, r, hread⟩ := State.record_hostRead off { s with events := rest }
    rw [hread]
    simp [hdone, not_clearsDone_read hr]
  · rw [clearsDone_write hr]
    exact State.hostWrite_done_iff off v (s := { s with events := rest }) hdone

/-! ## The interrupt -/

theorem exec_irq {i : Instr} {s t : State} (h : exec i s = .next t) : t.irq = s.ie := by
  rw [State.irq, (exec_frame h).ie, exec_done h, Bool.and_true]

theorem State.issue_irq_of_illegal {s : State} {v : Word} (hb : s.busy = false) (hv : 8 ≤ v.toNat) :
    (s.issue v).irq = s.ie := by
  obtain ⟨e, he⟩ := exists_decode_eq_error hv
  simp [State.issue_illegal hb he, State.irq]

theorem State.irq_of_not_done {s : State} (h : s.done = false) : s.irq = false := by
  rw [State.irq, h, Bool.and_false]

/-! ## Accesses while busy -/

/-- The state with other values in the parts an access can move while a command runs. -/
def State.touched (ie done av : Bool) (results : List Word) (s : State) : State :=
  { s with ie := ie, done := done, av := av, results := results }

/-- While busy an access of the interface moves at most `IE`, `DONE`, `AV` and the host's own record (20_memory.md R63;
70_reset_and_hazards.md R240). -/
theorem hostAccess_busy {s : State} {a : Access} (hb : s.busy = true) (hw : a.WellFormed) :
    ∃ ie done av results, hostAccess a s = .next (s.touched ie done av results) := by
  cases a with
  | read w off =>
    rw [hostAccess_read hw]
    rcases eq_or_ne off 0x14 with rfl | hoff
    · rw [State.hostRead_ddata, State.readPort_busy hb]
      exact ⟨s.ie, s.done, true, 0 :: s.results, rfl⟩
    · rw [State.record, State.hostRead_of_ne_ddata hoff]
      exact ⟨s.ie, s.done, s.av, (s.hostRead off).1 :: s.results, rfl⟩
  | write w off v =>
    rw [hostAccess_write hw]
    have heffect := s.hostWrite_effect off v
    generalize s.hostWrite off v = t at heffect ⊢
    cases heffect with
    | ctrl => exact ⟨v.getLsbD 0, s.done, s.av, s.results, rfl⟩
    | status => exact ⟨s.ie, s.done && !v.getLsbD 1, s.av && !v.getLsbD 2, s.results, rfl⟩
    | violation =>
      rw [State.violated_of_busy hb]
      exact ⟨s.ie, s.done, true, s.results, rfl⟩
    | reserved => exact ⟨s.ie, s.done, s.av, s.results, rfl⟩
    | _ _ hidle => simp [hb] at hidle

/-- No command reads what such an access moves. -/
theorem commandResult_touched (i : Instr) (s : State) (ie done av : Bool) (results : List Word) :
    commandResult i (s.touched ie done av results) = commandResult i s := by
  cases i <;> rfl

theorem exec_touched {i : Instr} {s t : State} (ie done av : Bool) (results : List Word) (h : exec i s = .next t) :
    exec i (s.touched ie done av results) = .next (t.touched ie true av results) := by
  rcases exec_cases h with ⟨rfl, rfl⟩ | ⟨hi, out, hr, rfl⟩ | ⟨e, hr, rfl⟩
  · rfl
  · exact exec_of_ok hi ((commandResult_touched ..).trans hr)
  · exact exec_of_error ((commandResult_touched ..).trans hr)

/-! ## The obligations -/

/-- Settles O44: a second write of `CMD` sets `AV`, and a second write of `DDATA` moves `DPTR` once more. -/
theorem idempotentAccesses : Obligations.IdempotentAccesses := by
  refine ⟨fun s off h => s.hostRead_of_ne_ddata h, fun s off v hoff => ?twice, ⟨State.reset, 1, fun h => ?cmd⟩,
    ⟨State.reset, 0, fun h => ?ddata⟩⟩
  case twice =>
    rcases hoff with rfl | rfl | rfl | rfl
    · rfl
    · exact s.writeStatus_writeStatus v
    · exact s.writeLen_writeLen v
    · exact s.writeDptr_writeDptr v
  case cmd => exact absurd (congrArg State.av h) (by decide)
  case ddata => exact absurd (congrArg State.dptr h) (by decide)

/-- Settles O48: `ClearsDone` is what `step_done_iff` says of each event, and `IRQ` is 0 without `DONE`. -/
theorem onlyAcknowledgesClearDone : Obligations.OnlyAcknowledgesClearDone := by
  refine ⟨fun s t e rest he hdone h => ⟨step_done_iff he hdone h, fun hclear => ?_⟩,
    fun s t he hdone h => engineTurn_done hdone (step_nil he ▸ h)⟩
  exact State.irq_of_not_done ((step_done_iff he hdone h).2 hclear)

/-- Settles O47: every end of a command and of an illegal issue sets `DONE` and leaves `IE`. -/
theorem interruptFollowsCompletion : Obligations.InterruptFollowsCompletion := by
  refine ⟨fun s => Bool.and_eq_true_iff, fun i s => ?_, fun s v => State.issue_irq_of_illegal, fun _ => rfl⟩
  obtain ⟨t, ht⟩ := exec_next i s
  exact ⟨t, ht, exec_irq ht⟩

/-- Settles O46: the access leaves `s.touched`, and the command run on it ends in the same state but for the parts
touched. -/
theorem busyAccessLeavesTheCommandAlone : Obligations.BusyAccessLeavesTheCommandAlone := by
  intro s a hb hw
  obtain ⟨ie, done, av, results, ht⟩ := hostAccess_busy hb hw
  refine ⟨_, ht, hb, rfl, rfl, rfl, fun i => ?_⟩
  obtain ⟨u, hu⟩ := exec_next i s
  exact ⟨u, _, hu, exec_touched ie done av results hu, rfl, rfl, rfl, rfl, (exec_done hu).symm, rfl⟩

end Sys2Proof.Machine
end

section
/-! Which event a step performs and which word a command has (20_memory.md R69, R71, R77; 30_encoding.md R92;
43_pipeline.md R187; 70_reset_and_hazards.md R230, R235): the placed word, bus addresses, accesses outside the
interface, the reset, and the obligations about them. -/

namespace Sys2Proof.Machine

/-! ## Placed words -/

theorem decodeTableWord_encode (i : Instr) : decodeTableWord 32 (encode i).toNat = some i := by
  rw [decodeTableWord, min_self, if_pos (encode i).isLt, BitVec.ofNat_toNat, BitVec.setWidth_eq, decode_encode]

theorem decodeTableWord_of_illegal {w : Nat} (h8 : 8 ≤ w) (hw : w < 2 ^ 32) : decodeTableWord 32 w = none := by
  have htoNat : 8 ≤ (BitVec.ofNat 32 w).toNat := by rwa [BitVec.toNat_ofNat, Nat.mod_eq_of_lt hw]
  obtain ⟨e, he⟩ := exists_decode_eq_error htoNat
  rw [decodeTableWord, min_self, if_pos hw, he]

/-- A placed legal word is pending and its turn is next, whether an event is left or not (log entry 9). -/
theorem step_withFetchWord_encode (s : State) (i : Instr) :
    step (s.withFetchWord 32 (encode i).toNat) = exec i (s.acceptCommand (opcode i)) := by
  rw [State.withFetchWord, placeCommand, decodeTableWord_encode]
  cases he : s.events with
  | nil =>
    have hturn : step (State.acceptCommand (opcode i) { s with events := [] }) =
        exec i (State.acceptCommand (opcode i) { s with events := [] }) :=
      (step_nil rfl).trans (engineTurn_busy rfl (decode_encode i))
    exact hturn.trans (by rw [← he])
  | cons e rest => exact step_engine_accepted.trans (by rw [← he])

theorem step_withFetchWord_illegal (s : State) {w : Nat} (h8 : 8 ≤ w) (hw : w < 2 ^ 32) :
    step (s.withFetchWord 32 w) = .next (failedWith .illegalCommand s) := by
  have htoNat : 8 ≤ (BitVec.ofNat 32 w).toNat := by rwa [BitVec.toNat_ofNat, Nat.mod_eq_of_lt hw]
  obtain ⟨e, he⟩ := exists_decode_eq_error htoNat
  rw [State.withFetchWord, placeCommand, decodeTableWord_of_illegal h8 hw,
    step_write (s := { s with busy := false, events := _ }) (by decide) rfl, State.hostWrite_cmd,
    State.issue_illegal rfl he]
  rfl

/-! ## Bus addresses -/

section Bus

variable {c : Config} {w : Width} {addr off : Nat} {v : Word}

theorem resolve_bus_read (h : busOffset c addr = some off) :
    (Event.bus (.read w addr)).resolve c = .access (.read w off) := by
  simp [Event.resolve, busToAccess, h]

theorem resolve_bus_write (h : busOffset c addr = some off) :
    (Event.bus (.write w addr v)).resolve c = .access (.write w off v) := by
  simp [Event.resolve, busToAccess, h]

theorem resolve_bus_outside {a : Access} (h : a.off < c.base ∨ c.base + 0x40 ≤ a.off) :
    (Event.bus a).resolve c = .bus a := by
  cases a with
  | read w addr =>
    have hoff : busOffset c addr = none := busOffset_outside h
    simp [Event.resolve, busToAccess, hoff]
  | write w addr v =>
    have hoff : busOffset c addr = none := busOffset_outside h
    simp [Event.resolve, busToAccess, hoff]

/-- A bus access that makes a write was a write at the address of its offset. -/
theorem eq_of_resolve_bus_write {a : Access} (h : (Event.bus a).resolve c = .access (.write w off v)) :
    a = .write w (c.base + off) v := by
  cases a with
  | read w' addr =>
    cases hoff : busOffset c addr with
    | none => simp [Event.resolve, busToAccess, hoff] at h
    | some off' => simp [Event.resolve, busToAccess, hoff] at h
  | write w' addr v' =>
    cases hoff : busOffset c addr with
    | none => simp [Event.resolve, busToAccess, hoff] at h
    | some off' =>
      rw [resolve_bus_write hoff] at h
      cases h
      rw [(busOffset_some hoff).1]

end Bus

/-- A step depends on its event only by what the event resolves to. -/
theorem step_resolved {s : State} {e : Event} {a : Access} {rest : List Event} (he : s.events = e :: rest)
    (hr : e.resolve s.cfg = .access a) : step s = step { s with events := .access a :: rest } := by
  rw [step_cons he, runEvent_access (s := { s with events := rest }) hr]
  rfl

/-! ## The reset -/

theorem step_reset {s : State} {rest : List Event} (h : s.events = .reset :: rest) :
    step s = .next (State.hardReset { s with events := rest }) := step_cons h

/-- No command fails on the empty message, and none stores a byte. -/
theorem messageResult_nil (c : Config) (i : Instr) : messageResult c i [] = .ok [] := by
  cases i with
  | b64e => exact fitEncoded_of_fits _ (Nat.zero_le _)
  | penc => exact fitEncoded_of_fits _ (Nat.zero_le _)
  | _ => rfl

theorem commandResult_resetWith (c : Config) (i : Instr) : commandResult i (State.resetWith c) = .ok [] :=
  (commandResult_of_fits i (Nat.zero_le _)).trans (messageResult_nil c i)

/-! ## The obligations -/

/-- Settles O2, for every command, all of them being well formed. -/
theorem decodeOfEncodeIsTheCommand : Obligations.DecodeOfEncodeIsTheCommand := fun i _ =>
  ⟨decode_encode i, decodeTableWord_encode i⟩

/-- Settles O3: three full words, a word with a reserved bit and one with an unassigned opcode. -/
theorem tableWordsDecodeAsWritten : Obligations.TableWordsDecodeAsWritten :=
  ⟨decode_encode .nop, decode_encode .b64d, decode_encode .penc, decode_of_rsvdField_ne_zero (by decide),
    decode_of_opcField_ge (by decide) (by decide)⟩

/-- Settles O4: the turn falls to the engine by its event or by default. -/
theorem stepRunsThePendingCommand : Obligations.StepRunsThePendingCommand := by
  refine fun s => ⟨fun i hb hd => ⟨fun he => ?_, fun rest he => step_engine he hb hd⟩,
    fun hb => ⟨fun he => ?_, fun rest he => ?_⟩⟩
  · rw [step_nil he, engineTurn_busy hb hd]
  · rw [step_nil he, engineTurn_idle hb]
  · exact (step_cons he).trans (engineTurn_idle (s := { s with events := rest }) hb)

/-- Settles O5: neither event depends on the parameters. -/
theorem stepPerformsTheNextEvent : Obligations.StepPerformsTheNextEvent := fun _ _ => ⟨fun _ => step_cons, step_reset⟩

/-- Settles O6: the executed state is that of an accepted issue. -/
theorem placedWordRunsInTheNextStep : Obligations.PlacedWordRunsInTheNextStep := fun s =>
  ⟨fun i => ⟨_, step_withFetchWord_encode s i, rfl, rfl, rfl, rfl, rfl, rfl, rfl, rfl⟩,
    fun _ => step_withFetchWord_illegal s⟩

/-- Settles O7: the run is an issue and the engine's turn. -/
theorem nopOnlyEndsWithSuccess : Obligations.NopOnlyEndsWithSuccess := by
  refine ⟨decode_encode .nop, fun s => rfl, fun s rest hb hav he => ?_⟩
  refine ⟨_, run_issue_engine (i := .nop) hb he rfl, ?_⟩
  simp [State.statusWord_eq_ofNat, errField, hav]

/-- Settles O43: `WellFormed` is the interface. -/
theorem accessHasStepExactlyInTheInterface : Obligations.AccessHasStepExactlyInTheInterface := by
  intro s a rest he
  have hstep : step s = hostAccess a { s with events := rest } := step_cons he
  rw [hstep]
  refine ⟨⟨fun ⟨t, ht⟩ => ?_, fun hw => hostAccess_next hw _⟩, hostAccess_outside⟩
  by_contra hw
  rw [hostAccess_outside hw] at ht
  cases ht

/-- Settles O49, field by field; nothing is listed, so every byte is a free value of the new draw. -/
theorem resetLeavesTheResetState : Obligations.ResetLeavesTheResetState :=
  ⟨fun _ _ he => ⟨_, step_reset he, rfl, rfl, rfl, rfl, rfl, rfl, rfl, rfl, rfl, fun _ => rfl⟩,
    rfl, rfl, rfl, rfl, rfl, rfl, rfl, rfl, fun _ => rfl⟩

/-- Settles O50: NOP only ends, and every other command completes with no output. -/
theorem commandAfterResetSucceeds : Obligations.CommandAfterResetSucceeds := by
  intro c i
  rcases eq_or_ne i .nop with rfl | hi
  · exact ⟨_, rfl, rfl, rfl, rfl, rfl⟩
  · exact ⟨_, exec_of_ok hi (commandResult_resetWith c i), rfl, rfl, rfl, rfl⟩

/-- Settles O60: a bus access resolves to an access at its offset or to none, and `DATA` changes only by that of
`DDATA`. -/
theorem busAddressSelectsTheOffset : Obligations.BusAddressSelectsTheOffset := by
  refine ⟨fun s w off rest hoff => ⟨fun he => step_resolved he (resolve_bus_read (busOffset_base hoff)),
    fun v he => step_resolved he (resolve_bus_write (busOffset_base hoff))⟩, fun s a rest he hout => ?outside,
    fun s t a rest he h hne => ?data⟩
  case outside => rw [step_cons he, runEvent_bus (s := { s with events := rest }) (resolve_bus_outside hout)]
  case data =>
    rcases step_data_cases h with hdata | ⟨e, v, rest', hev, hr, -⟩ | ⟨-, hev | ⟨rest', hev⟩, -⟩ | ⟨rest', hev, -⟩
    · exact absurd hdata hne
    · obtain ⟨rfl, rfl⟩ := List.cons.inj (he.symm.trans hev)
      exact ⟨v, eq_of_resolve_bus_write hr⟩
    all_goals simp [he] at hev

end Sys2Proof.Machine
end

section
/-! LOAD and UNLOAD from any idle block (30_encoding.md R98; 20_memory.md R78): what the host's reads of the port
record, and the two obligations. -/

namespace Sys2Proof.Machine

/-! ## UNLOAD -/

/-- A read of `DDATA` inside the buffer gives the host the byte at `DPTR` and moves `DPTR` on (20_memory.md R65). -/
theorem step_rd_ddata {s : State} {rest : List Event} (hb : s.busy = false) (hd : s.dptr.toNat < s.cfg.bufBytes)
    (h : s.events = rd .ddata :: rest) :
    step s = .next { s with
      events := rest, dptr := s.dptr + 1, results := (s.memRead s.dptr.toNat).setWidth 32 :: s.results } := by
  obtain ⟨-, -, hinRange⟩ := dataPortRead s rest h
  exact hinRange hb hd

/-- The `n` bytes of `DATA` from index `i` up, as the values a host reads. -/
def State.portValues (i n : Nat) (s : State) : List Word := (List.range' i n).map fun j => (s.memRead j).setWidth 32

theorem State.portValues_succ (i n : Nat) (s : State) :
    s.portValues i (n + 1) = (s.memRead i).setWidth 32 :: s.portValues (i + 1) n := rfl

theorem State.portValues_message (s : State) : s.portValues 0 s.len.toNat = s.message.map (·.setWidth 32) := by
  rw [State.portValues, State.message, List.map_map, List.range_eq_range']
  rfl

/-- Reads of `DDATA` from an idle block record the bytes from `DPTR` on, the latest first, as long as they stay inside
the buffer (20_memory.md R65; log entry 6). -/
theorem run_port_reads {s : State} {i n : Nat} {rest : List Event} (hb : s.busy = false)
    (hbuf : s.cfg.bufBytes ≤ 2 ^ 31) (hd : s.dptr = BitVec.ofNat 32 i) (hfit : i + n ≤ s.cfg.bufBytes)
    (hev : s.events = List.replicate n (rd .ddata) ++ rest) :
    Host.Core.run core n s = .next { s with
      dptr := BitVec.ofNat 32 (i + n)
      events := rest
      results := (s.portValues i n).reverse ++ s.results } := by
  induction n generalizing s i with
  | zero =>
    obtain rfl : s.events = rest := hev
    rw [run_zero, Nat.add_zero, ← hd]
    rfl
  | succ n ih =>
    have hi : s.dptr.toNat = i := by rw [hd, BitVec.toNat_ofNat, Nat.mod_eq_of_lt (by omega)]
    have hnext : s.dptr + 1 = BitVec.ofNat 32 (i + 1) := by rw [hd, BitVec.ofNat_add]; rfl
    have hstep := step_rd_ddata hb (by omega) hev
    rw [hi] at hstep
    have htail := ih (s := { s with
      events := _, dptr := s.dptr + 1, results := (s.memRead i).setWidth 32 :: s.results }) hb hbuf hnext
        (by rwa [Nat.add_right_comm]) rfl
    rw [State.portValues_succ, List.reverse_cons, List.append_assoc]
    rw [Nat.add_right_comm] at htail
    exact (run_next n hstep).trans htail

/-- What UNLOAD leaves of a state, with the events `rest` to come. -/
def State.unloaded (rest : List Event) (s : State) : State :=
  { s with
    dptr := s.len
    events := rest
    results := (s.portValues 0 s.len.toNat).reverse ++ s.len :: s.results }

theorem run_unload {s : State} {rest : List Event} (hb : s.busy = false) (hbuf : s.cfg.bufBytes ≤ 2 ^ 31)
    (hfit : s.len.toNat ≤ s.cfg.bufBytes) (hev : s.events = unloadOf s.len.toNat ++ rest) :
    Host.Core.run core (s.len.toNat + 2) s = .next (s.unloaded rest) := by
  have hlen := step_read_value (w := s.len) (by decide : InAperture 0x0C) hev rfl
  have hptr := step_wr_dptr (s := { s with events := _, results := s.len :: s.results }) (v := 0)
    (rest := List.replicate s.len.toNat (rd .ddata) ++ rest) hb rfl
  have hports := run_port_reads (s := { s with dptr := 0, events := _, results := s.len :: s.results }) (i := 0)
    (n := s.len.toNat) (rest := rest) hb hbuf rfl (by rwa [Nat.zero_add]) rfl
  rw [Nat.zero_add, BitVec.ofNat_toNat, BitVec.setWidth_eq] at hports
  exact (run_next _ hlen).trans ((run_next _ hptr).trans hports)

/-! ## The obligations -/

/-- Settles O58: LOAD leaves the `DATA` of a completion with the message as output. -/
theorem loadPlacesTheMessage : Obligations.LoadPlacesTheMessage := by
  intro s msg rest hbuf hb hfit hev
  have hlen : (BitVec.ofNat 32 msg.length).toNat = msg.length := by
    rw [BitVec.toNat_ofNat, Nat.mod_eq_of_lt (by omega)]
  refine ⟨_, run_load hb hbuf hfit hev, s.message_loaded rest (by omega), hlen, hlen, rfl, rfl, fun i hi => ?_⟩
  have hmem : (s.loaded msg rest).memRead = (s.complete msg).memRead := State.memRead_congr rfl rfl
  rw [hmem, State.memRead_complete, dif_neg (Nat.not_lt.2 hi)]

/-- Settles O59: LEN is read first, then the port from index 0 on. -/
theorem unloadReturnsTheMessage : Obligations.UnloadReturnsTheMessage := fun _ _ hbuf hb hfit hev =>
  ⟨_, run_unload hb hbuf hfit hev, by rw [State.unloaded, State.portValues_message], rfl, rfl, rfl, rfl, rfl⟩

end Sys2Proof.Machine
end

section
/-! The seven commands that work on the message, in place (40_mask.md R113; 41_diffusion.md R137, R138; 42_base64.md
R159, R160; 43_pipeline.md R184, R185): the formulas over `DATA` instead of the message, a command after a completion,
and the obligations, one for each command and for the round trip of B64E and B64D. -/

namespace Sys2Proof.Machine

/-! ## The formulas over DATA -/

theorem State.message_getD (s : State) {i : Nat} (h : i < s.len.toNat) : s.message.getD i 0 = s.memRead i :=
  (State.memRead_of_message rfl (by rwa [s.message_length])).symm

theorem specMasked_congr {m : Word} {L i : Nat} {f g : Nat → Byte} (h : f i = g i) :
    specMasked m L f i = specMasked m L g i := by
  simp only [specMasked, h]

theorem keysBefore_congr {f g : Nat → Byte} {j : Nat} (h : ∀ i, i < j → f i = g i) :
    keysBefore f j = keysBefore g j := by
  induction j with
  | zero => rfl
  | succ j ih =>
    rw [keysBefore_succ, keysBefore_succ, ih fun i hi => h i (by omega), h j (Nat.lt_succ_self j)]

theorem specEncoded_congr {c : Config} {n : Nat} {f g : Nat → Byte} (h : ∀ j, j < n → f j = g j) (i : Nat) :
    specEncoded c n f i = specEncoded c n g i := by
  have hat (j : Nat) : (if j < n then (f j).toNat else 0) = if j < n then (g j).toNat else 0 := by
    by_cases hj : j < n
    · rw [h j hj]
    · simp only [if_neg hj]
  simp only [specEncoded, hat]

/-- Decoding takes its keys from its own output (41_diffusion.md R136): read off the closed form of encoding it back. -/
theorem diffDec_getElem? (t : List Byte) (j : Nat) :
    (diffDec t)[j]? = t[j]?.map (· ^^^ keysBefore (fun i => (diffDec t).getD i 0) j) := by
  have hback := diffEnc_getElem? (diffDec t) j
  rw [diffEnc_diffDec] at hback
  rw [hback, Option.map_map]
  simp only [Function.comp_def, xor_cancel_right, Option.map_id']

/-! ## One command after another -/

section Chain

variable {i : Instr} {s : State} {a b out : List Byte} {e : ErrCode}

theorem exec_of_messageResult (hi : i ≠ .nop) (hs : s.len.toNat ≤ s.cfg.bufBytes)
    (h : messageResult s.cfg i s.message = .ok out) : exec i s = .next (s.complete out) :=
  exec_of_ok hi ((commandResult_of_fits i hs).trans h)

theorem exec_of_messageResult_error (hs : s.len.toNat ≤ s.cfg.bufBytes)
    (h : messageResult s.cfg i s.message = .error e) : exec i s = .next (failedWith e s) :=
  exec_of_error ((commandResult_of_fits i hs).trans h)

/-- A command straight after a completion works on its output. -/
theorem exec_complete (hi : i ≠ .nop) (ha : a.length ≤ s.cfg.bufBytes) (hlt : a.length < 2 ^ 32)
    (h : messageResult s.cfg i a = .ok out) : exec i (s.complete a) = .next ((s.complete a).complete out) := by
  have hmsg : (s.complete a).message = a := s.message_complete a hlt
  refine exec_of_messageResult hi ?_ (by rw [hmsg]; exact h)
  rw [← State.message_length, hmsg]
  exact ha

/-- A completion with an output no shorter than the one before hides it. -/
theorem State.memRead_complete_complete (h : a.length ≤ out.length) :
    ((s.complete a).complete out).memRead = (s.complete out).memRead := by
  funext j
  rw [State.memRead_complete, State.memRead_complete s out]
  by_cases hj : j < out.length
  · simp only [dif_pos hj]
  · simp only [dif_neg hj]
    rw [State.memRead_complete, dif_neg (by omega)]

/-- Three completions of which the last hides the others leave the `DATA` and `LEN` of the last alone. -/
theorem completed_of_chain {n : Nat} (hn : n < 2 ^ 32) (hout : out.length = n) (ha : a.length ≤ n) (hb : b.length ≤ n) :
    Completed s (s.complete out) n (((s.complete a).complete b).complete out).memRead ∧
      (s.complete out).len = (((s.complete a).complete b).complete out).len ∧
      ∀ j, (s.complete out).memRead j = (((s.complete a).complete b).complete out).memRead j := by
  subst hout
  have hmem : (((s.complete a).complete b).complete out).memRead = (s.complete out).memRead :=
    (State.memRead_complete_complete hb).trans (State.memRead_complete_complete ha)
  rw [hmem]
  exact ⟨{ completed_complete hn with inside := fun _ _ => rfl }, rfl, fun _ => rfl⟩

end Chain

/-! ## The encoders -/

theorem exec_b64e_of_fits {s : State} (h : encodedLength s.len.toNat ≤ s.cfg.bufBytes) :
    exec .b64e s = .next (s.complete (b64Enc s.cfg s.message)) :=
  exec_of_messageResult (by decide) ((le_encodedLength _).trans h) (fitEncoded_of_fits _ (by rwa [s.message_length]))

/-- A message that does not fit has an encoding that does not. -/
theorem exec_encoder_of_long_message_or_encoding {i : Instr} {s : State} (hi : i = .b64e ∨ i = .penc)
    (h : s.cfg.bufBytes < s.len.toNat ∨ s.cfg.bufBytes < encodedLength s.len.toNat) :
    exec i s = .next (failedWith .capacity s) :=
  exec_encoder_of_long hi (h.elim (le_encodedLength _).trans_lt' id)

/-! ## The errors of decoding -/

/-- Over whole chunks decoding has one error (42_base64.md R155). -/
theorem decodeChunks_error {c : Config} {t : List Byte} {e : ErrCode} (ht : t.length % 4 = 0)
    (h : decodeChunks c t = .error e) : e = .invalidCharacter := by
  induction t, ht using chunksInduction generalizing e with
  | nil => cases h
  | chunk c0 c1 c2 c3 rest hrest ih =>
    cases hchunk : decodeChunk c (padCount c rest.isEmpty c2 c3) c0 c1 c2 c3 with
    | none =>
      rw [decodeChunks_of_none hchunk] at h
      cases h
      rfl
    | some bytes =>
      rw [decodeChunks_of_some hchunk] at h
      cases hmore : decodeChunks c rest with
      | ok more =>
        rw [hmore] at h
        cases h
      | error e' =>
        rw [hmore] at h
        cases h
        exact ih hmore

theorem b64Dec_error {c : Config} {t : List Byte} {e : ErrCode} (h : b64Dec c t = .error e) :
    e = .invalidLength ∨ e = .invalidCharacter := by
  by_cases hwhole : t.length % 4 = 0
  · rw [b64Dec_of_whole_chunks hwhole] at h
    exact .inr (decodeChunks_error hwhole h)
  · have hcode := resultCode_b64Dec_of_not_whole c hwhole
    rw [h] at hcode
    exact .inl hcode

/-! ## The obligations -/

/-- Settles O9: the masked message byte by byte, by `maskApplyByteFormula`. -/
theorem maskCommandInPlace : Obligations.MaskCommandInPlace := by
  refine ⟨decode_encode .mask, fun s => ⟨exec_of_long (by decide), fun hs => ⟨_, exec_mask_of_fits hs,
    completed_of_bytes s.len.isLt (by simp) fun i hi => ?_⟩⟩⟩
  obtain ⟨-, -, hbyte⟩ := maskApplyByteFormula s.cfg.mask s.message
  rw [hbyte i (by rwa [s.message_length]), s.message_length]
  exact congrArg some (specMasked_congr (s.message_getD hi))

/-- Settles O15: the closed form of the encoding, its keys those of `DATA` before the command. -/
theorem dencCommandInPlace : Obligations.DencCommandInPlace := by
  refine ⟨decode_encode .denc, fun s => ⟨exec_of_long (by decide), fun hs => ⟨_, exec_denc_of_fits hs,
    completed_of_bytes s.len.isLt (by simp) fun j hj => ?_⟩⟩⟩
  rw [diffEnc_getElem?, s.message_get hj, Option.map_some,
    keysBefore_congr fun i hi => s.message_getD (hi.trans hj)]

/-- Settles O16: the closed form of the decoding, its keys those of `DATA` after the command. -/
theorem ddecCommandInPlace : Obligations.DdecCommandInPlace := by
  refine ⟨decode_encode .ddec, fun s => ⟨exec_of_long (by decide), fun hs => ⟨_, exec_ddec_of_fits hs,
    completed_of_bytes s.len.isLt (by simp) fun j hj => ?_⟩⟩⟩
  have hlen : (diffDec s.message).length = s.len.toNat := by simp
  have hmsg := s.message_complete (diffDec s.message) (hlen ▸ s.len.isLt)
  rw [diffDec_getElem?, s.message_get hj, Option.map_some,
    keysBefore_congr fun i hi => (State.memRead_of_message hmsg (by omega)).symm]

/-- Settles O24: the encoding character by character, by `base64EncodeCharFormula`. -/
theorem b64eCommandInPlace : Obligations.B64eCommandInPlace := by
  refine ⟨decode_encode .b64e, fun s hbuf => ⟨exec_encoder_of_long_message_or_encoding (.inl rfl), fun hfits =>
    ⟨_, exec_b64e_of_fits hfits, ?_⟩⟩⟩
  obtain ⟨hlen, hchar⟩ := base64EncodeCharFormula s.cfg s.message
  rw [s.message_length] at hlen hchar
  refine completed_of_bytes (by omega) hlen fun i hi => ?_
  rw [hchar i hi]
  exact congrArg some (specEncoded_congr (fun j hj => s.message_getD hj) i)

/-- Settles O25: the command ends as `B64Dec` does. -/
theorem b64dCommandInPlace : Obligations.B64dCommandInPlace := by
  refine ⟨decode_encode .b64d, fun s => ⟨exec_of_long (by decide), fun hs => ⟨fun e he => ?_, fun r hr => ?_⟩⟩⟩
  · exact ⟨b64Dec_error he, exec_of_messageResult_error hs he⟩
  · have hlen : r.length ≤ s.len.toNat := s.message_length ▸ b64Dec_length hr
    exact ⟨hlen, _, exec_of_messageResult (by decide) hs hr, completed_complete (by omega)⟩

/-- Settles O26: B64D finds the encoding as its message and completes with what was encoded. -/
theorem b64dUndoesB64e : Obligations.B64dUndoesB64e := by
  refine ⟨exec_next .b64d, fun s hc hfits => ?_⟩
  have hbuf := bufBytes_le_of_valid hc
  have henc : (b64Enc s.cfg s.message).length = encodedLength s.len.toNat := by simp
  have hle : encodedLength s.len.toNat ≤ s.cfg.bufBytes := hfits
  refine ⟨_, _, exec_b64e_of_fits hle, exec_complete (by decide) (by omega) (by omega)
    (base64RoundTrip s.cfg hc s.message), rfl, ?_, fun i hi => ?_⟩
  · rw [State.complete_len, s.message_length, BitVec.ofNat_toNat, BitVec.setWidth_eq]
  · rw [State.memRead_complete, dif_pos (by rwa [s.message_length])]
    simp [State.message]

/-- Settles O27: the outputs of MASK and DENC are as long as the message and so no longer than the encoding, which
hides them. -/
theorem pencIsMaskDencB64e : Obligations.PencIsMaskDencB64e := by
  refine ⟨decode_encode .penc, fun s hbuf => ⟨exec_encoder_of_long_message_or_encoding (.inr rfl), fun hfits => ?_⟩⟩
  have hle : s.len.toNat ≤ 4 * ((s.len.toNat + 2) / 3) := le_encodedLength s.len.toNat
  have hmask : (maskApply s.cfg.mask s.message).length = s.len.toNat := by simp
  have hdenc : (diffEnc (maskApply s.cfg.mask s.message)).length = s.len.toNat := by simp
  obtain ⟨hcompleted, hlen, hmem⟩ := completed_of_chain (s := s) (out := pipeEncode s.cfg s.message)
    (n := 4 * ((s.len.toNat + 2) / 3)) (by omega) (by simp [encodedLength]) (hmask.trans_le hle) (hdenc.trans_le hle)
  exact ⟨_, _, _, _, exec_mask_of_fits (hle.trans hfits), exec_complete (by decide) (by omega) (by omega) rfl,
    exec_complete (s := s.complete _) (by decide) (hdenc.trans_le (hle.trans hfits)) (by omega)
      (fitEncoded_of_fits _ (by rw [hdenc]; exact hfits)),
    exec_penc_of_fits hfits, rfl, hcompleted, hlen, hmem⟩

/-- Settles O28: the three outputs have the decoded length. -/
theorem pdecIsB64dDdecMask : Obligations.PdecIsB64dDdecMask := by
  refine ⟨decode_encode .pdec, fun s => ⟨exec_of_long (by decide), fun hs => ⟨fun e he => ?error, fun r hr => ?chain⟩⟩⟩
  case error => exact exec_of_messageResult_error hs (pipeDecode_of_error he)
  case chain =>
    have hle : r.length ≤ s.len.toNat := s.message_length ▸ b64Dec_length hr
    have hddec : (diffDec r).length = r.length := diffDec_length r
    obtain ⟨hcompleted, hlen, hmem⟩ := completed_of_chain (s := s) (out := maskApply s.cfg.mask (diffDec r))
      (a := r) (n := r.length) (by omega) (by simp) le_rfl hddec.le
    exact ⟨_, _, _, _, exec_of_messageResult (by decide) hs hr,
      exec_complete (by decide) (hle.trans hs) (by omega) rfl,
      exec_complete (s := s.complete _) (by decide) (hddec.trans_le (hle.trans hs)) (by omega) rfl,
      exec_pdec_of_decoded hs (pipeDecode_of_decoded hr), hcompleted, hlen, hmem⟩

end Sys2Proof.Machine
end

section
/-! The key table (41_diffusion.md R131, R132): each of its 256 entries is `floor(2π·h) mod 256`, from an enclosure of
`2π` narrow enough that no multiple up to `255` straddles a natural number. -/

namespace Sys2Proof.Machine

/-- `62831853 / 10^7 < 2π`. -/
theorem two_pi_gt : (62831853 : ℝ) < 2 * Real.pi * 10 ^ 7 := by
  have := Real.pi_gt_d20
  linarith

/-- `2π < 62831854 / 10^7`. -/
theorem two_pi_lt : 2 * Real.pi * 10 ^ 7 < (62831854 : ℝ) := by
  have := Real.pi_lt_d20
  linarith

/-- No multiple `2π·h` of a byte lies within the enclosure's error of the next natural number (the closest is at
`h = 113`). -/
theorem two_pi_enclosure_mul (h : Byte) : 62831854 * h.toNat < (62831853 * h.toNat / 10 ^ 7 + 1) * 10 ^ 7 := by
  revert h; decide +kernel

theorem floor_two_pi_mul (h : Byte) :
    ⌊2 * Real.pi * (h.toNat : ℝ)⌋ = ((62831853 * h.toNat / 10 ^ 7 : ℕ) : ℤ) := by
  have hlow : ((62831853 * h.toNat / 10 ^ 7 : ℕ) : ℝ) * 10 ^ 7 ≤ 62831853 * h.toNat := by
    exact_mod_cast Nat.div_mul_le_self ..
  have hhigh : (62831854 * h.toNat : ℝ) < (((62831853 * h.toNat / 10 ^ 7 : ℕ) : ℝ) + 1) * 10 ^ 7 := by
    exact_mod_cast two_pi_enclosure_mul h
  have hh : (0 : ℝ) ≤ h.toNat := Nat.cast_nonneg _
  have hgt := mul_le_mul_of_nonneg_right two_pi_gt.le hh
  have hlt := mul_le_mul_of_nonneg_right two_pi_lt.le hh
  rw [Int.floor_eq_iff, Int.cast_natCast]
  constructor <;> linarith

theorem key_toNat (h : Byte) : (key h).toNat = 62831853 * h.toNat / 10 ^ 7 % 256 := by
  revert h; decide +kernel

/-- Settles O12: the table holds the floors that the enclosure of `2π` gives. -/
theorem keyIsFloorOfTwoPiH : Obligations.KeyIsFloorOfTwoPiH := by
  intro h
  rw [floor_two_pi_mul, key_toNat]
  exact Int.natCast_emod ..

end Sys2Proof.Machine
end
